-- ==== Sys2Proof/Word.lean ====
section
/-! DEFINITION. The word types of Wetector CORE (spec/00_scope.md R9): every value of the block is unsigned, bit 0 is
the least significant bit. -/

namespace Sys2Proof

/-- A host register, a command word, a bus data word (10_state.md R20, 30_encoding.md R85). -/
abbrev Word := BitVec 32

/-- A 16-bit field: `start`, `count`, a logical index, a storage address, a poll budget (10_state.md R35, R40). -/
abbrev Half := BitVec 16

/-- A sample, a frame byte, a byte of storage (10_state.md R31, 20_memory.md R61). -/
abbrev Byte := BitVec 8

end Sys2Proof
end

