-- ==== Sys2Proof/Config.lean ====
section
/-! DEFINITION. What the elaboration of a block fixes (spec/00_scope.md R7, R8) and the values the spec leaves to a draw
(spec/93_implementation_defined.md U1, U3, U4, U7). The parameters are plain data that the state carries, so that a
claim about every state is a claim about every elaboration; the draws are constants without a body. -/

namespace Sys2Proof

/-- The four sample buffers in the spec's order (00_scope.md R8): humidity-short, humidity-long, temperature-short,
temperature-long. -/
inductive BufId where
  | hs
  | hl
  | ts
  | tl
  deriving DecidableEq, Repr, Inhabited

/-- The implementation parameters of 00_scope.md R7, each a count of bytes, cycles, stages, ticks or polls. -/
structure Params where
  cap0        : Nat
  cap1        : Nat
  cap2        : Nat
  cap3        : Nat
  storeSize   : Nat
  cycPerUs    : Nat
  syncStages  : Nat
  tRelHigh    : Nat
  tRelInput   : Nat
  tAck        : Nat
  tAckEnd     : Nat
  tSettle     : Nat
  budgetReset : Nat
  deriving DecidableEq, Repr

/-- `CAPb`, the capacity of buffer `b` (10_state.md R40). -/
def Params.cap (p : Params) : BufId → Nat
  | .hs => p.cap0
  | .hl => p.cap1
  | .ts => p.cap2
  | .tl => p.cap3

/-- Tick `P1` of a READ: the pin becomes an input (41_decoder.md R123, R124). -/
def Params.p1 (p : Params) : Nat := p.tRelHigh

/-- Tick `P2` of a READ: the ack-low sample (41_decoder.md R123, R125). -/
def Params.p2 (p : Params) : Nat := p.p1 + p.tRelInput

/-- Tick `P3` of a READ: the ack-high sample (41_decoder.md R123, R126). -/
def Params.p3 (p : Params) : Nat := p.p2 + p.tAck

/-- Tick `P4` of a READ: the first poll of bit 0 (41_decoder.md R123, R127). -/
def Params.p4 (p : Params) : Nat := p.p3 + p.tAckEnd

/-- A parameter whose range is 1 to 65535 (00_scope.md R7). -/
abbrev Params.InRange (n : Nat) : Prop := 1 ≤ n ∧ n ≤ 65535

/-- The ranges of 00_scope.md R7. A capacity of 0 is refused at elaboration (93_implementation_defined.md U21). -/
abbrev Params.WellFormed (p : Params) : Prop :=
  (Params.InRange p.cap0 ∧ Params.InRange p.cap1 ∧ Params.InRange p.cap2 ∧ Params.InRange p.cap3) ∧
  (1 ≤ p.storeSize ∧ p.storeSize ≤ 65536) ∧
  Params.InRange p.cycPerUs ∧
  (1 ≤ p.syncStages ∧ p.syncStages ≤ 4) ∧
  (Params.InRange p.tRelHigh ∧ Params.InRange p.tRelInput ∧ Params.InRange p.tAck ∧ Params.InRange p.tAckEnd ∧
    Params.InRange p.tSettle) ∧
  Params.InRange p.budgetReset

/-- The reference configuration of 00_scope.md R7. `STORE_SIZE` and `CYC_PER_US` are OPEN there: the values 64 and 1
are those of the spec's own vectors and program PG1 (95_test_vectors.md), DESIGN CHOICE, notes/assumptions/1.md.
UNSAFE only for a claim about `State.reset` itself that leans on one of the two. -/
def Params.reference : Params where
  cap0        := 10
  cap1        := 300
  cap2        := 10
  cap3        := 300
  storeSize   := 64
  cycPerUs    := 1
  syncStages  := 2
  tRelHigh    := 40
  tRelInput   := 40
  tAck        := 80
  tAckEnd     := 80
  tSettle     := 30
  budgetReset := 200

/-- The level on `pin_in` in a clock cycle for which the state lists none: a draw (41_decoder.md R121, U4, U11). The
argument is the number of the cycle. -/
opaque Config.pinLevel : Nat → Bool

/-- `st_ack` in a clock cycle for which the state lists none: the medium's own choice (20_memory.md R65, U6, U7). The
argument is the number of the cycle. -/
opaque Config.mediumAck : Nat → Bool

/-- The byte a storage read finds at an address the block has not written: a draw for each read (20_memory.md R69, U3).
The arguments are the address and the number of the cycle. -/
opaque Config.storageByte : Nat → Nat → Byte

/-- The byte a sample memory holds in a slot nothing has written: a draw (10_state.md R48, U1). The arguments are the
capacity's buffer, the slot and the number of the cycle. -/
opaque Config.sampleByte : BufId → Nat → Nat → Byte

end Sys2Proof
end

