-- ==== Sys2Proof/Syntax.lean ====
section
/-! DEFINITION. The commands of the block, one constructor per row of spec/opcode_table.json (30_encoding.md R86), and
the assembler's command lines (30_encoding.md R92). -/

namespace Sys2Proof

/-- The eight commands. Every operand has exactly the width its field has (30_encoding.md R87, R88), so every term is
an instruction some word encodes; a word with another opcode is no instruction (30_encoding.md R90). -/
inductive Instr where
  /-- START, 41_decoder.md R122. -/
  | start
  /-- READ, 41_decoder.md R123. -/
  | read
  /-- INIT, 42_ring_buffer.md R150. -/
  | init (b : BufId)
  /-- PUSH, 42_ring_buffer.md R151. -/
  | push (b : BufId) (x : Byte)
  /-- AT, 42_ring_buffer.md R153. -/
  | atIndex (b : BufId) (i : Half)
  /-- AVG, 42_ring_buffer.md R154. -/
  | avg (b : BufId)
  /-- SAVE, 43_persistence.md R175. -/
  | save (b : BufId) (off : Half)
  /-- LOAD, 43_persistence.md R177. -/
  | load (b : BufId) (off : Half)
  deriving DecidableEq, Repr

/-- A command line of the assembler with its operands as the programmer wrote them, numbers of any size
(30_encoding.md R92). WellFormed.lean checks the ranges; Decode.lean assembles. -/
inductive AsmLine where
  | start
  | read
  | init (buf : Nat)
  | push (buf imm8 : Nat)
  | atIndex (buf imm16 : Nat)
  | avg (buf : Nat)
  | save (buf imm16 : Nat)
  | load (buf imm16 : Nat)
  /-- `.word <imm32>`: any word, the illegal ones too. -/
  | word (imm32 : Nat)
  deriving DecidableEq, Repr

end Sys2Proof
end

