-- ==== Sys2Proof/WellFormed.lean ====
section
/-! DEFINITION. What is checked of a term before it means anything: the operand ranges of an assembler line
(30_encoding.md R92) here, the parameters' ranges in Config.lean (00_scope.md R7). An `Instr` needs no check: each of
its operands has the width of its field. -/

namespace Sys2Proof

/-- `<buf>` is a digit 0 to 3 (or the name of one), `<imm8>` is 0 to 255, `<imm16>` is 0 to 65535, `<imm32>` a word: an
operand out of range is an assembler error, not a truncation (30_encoding.md R92). -/
def AsmLine.wellFormed : AsmLine → Bool
  | .start => true
  | .read => true
  | .init b => decide (b < 4)
  | .push b x => decide (b < 4) && decide (x < 256)
  | .atIndex b i => decide (b < 4) && decide (i < 65536)
  | .avg b => decide (b < 4)
  | .save b o => decide (b < 4) && decide (o < 65536)
  | .load b o => decide (b < 4) && decide (o < 65536)
  | .word w => decide (w < 4294967296)

end Sys2Proof
end

