-- ==== Sys2Proof/Decode.lean ====
section
/-! DEFINITION. The command word CMD32 (30_encoding.md R85 to R91): the fields, the decoder, total on every word and
rejecting an illegal opcode by name, and after it the encoder and the assembler of 30_encoding.md R92. -/

namespace Sys2Proof

/-- OP, bits [3:0] (30_encoding.md R85). -/
def opField (w : Word) : BitVec 4 := w.extractLsb' 0 4

/-- BUF, bits [5:4] (30_encoding.md R85). -/
def bufField (w : Word) : BitVec 2 := w.extractLsb' 4 2

/-- ARG, bits [31:16] (30_encoding.md R85). -/
def argField (w : Word) : Half := w.extractLsb' 16 16

/-- PUSH's sample, bits [23:16]; bits [31:24] are ignored (30_encoding.md R88). -/
def sampleField (w : Word) : Byte := w.extractLsb' 16 8

/-- The number of a buffer (00_scope.md R8). -/
def BufId.code : BufId → BitVec 2
  | .hs => 0
  | .hl => 1
  | .ts => 2
  | .tl => 3

/-- The buffer a number names; all four values are legal (30_encoding.md R87). -/
def BufId.ofCode (c : BitVec 2) : BufId :=
  match c.toNat with
  | 0 => .hs
  | 1 => .hl
  | 2 => .ts
  | _ => .tl

/-- What a word is: an instruction, or ILLEGAL with its opcode (30_encoding.md R91). -/
inductive Decoded where
  | instr (i : Instr)
  | illegal (op : BitVec 4)
  deriving DecidableEq, Repr

/-- The decoder of 30_encoding.md R91. -/
def decode (w : Word) : Decoded :=
  match (opField w).toNat with
  | 1 => .instr .start
  | 2 => .instr .read
  | 3 => .instr (.init (BufId.ofCode (bufField w)))
  | 4 => .instr (.push (BufId.ofCode (bufField w)) (sampleField w))
  | 5 => .instr (.atIndex (BufId.ofCode (bufField w)) (argField w))
  | 6 => .instr (.avg (BufId.ofCode (bufField w)))
  | 7 => .instr (.save (BufId.ofCode (bufField w)) (argField w))
  | 8 => .instr (.load (BufId.ofCode (bufField w)) (argField w))
  | _ => .illegal (opField w)

/-- The command a word of `nbits` bits stands for, every bit above them 0 (the host's question about a row of
opcode_table.json); none where the opcode is illegal. A command is one word on the bus, never bytes in a memory
(30_encoding.md R85, 20_memory.md R80). -/
def decodeTableWord (nbits w : Nat) : Option Instr :=
  match decode (BitVec.ofNat 32 (w % 2 ^ nbits)) with
  | .instr i => some i
  | .illegal _ => none

/-- A field placed in a word, its lowest bit at bit `lo` (00_scope.md R9). -/
def placeField {n : Nat} (x : BitVec n) (lo : Nat) : Word := x.setWidth 32 <<< lo

/-- A word from its fields, `OP | BUF<<4 | ARG<<16`, every ignored bit 0 (30_encoding.md R85, R92). -/
def packWord (op : BitVec 4) (b : BitVec 2) (arg : Half) : Word :=
  placeField op 0 ||| placeField b 4 ||| placeField arg 16

/-- OP of an instruction (30_encoding.md R86). -/
def Instr.opcode : Instr → BitVec 4
  | .start => 0x1
  | .read => 0x2
  | .init _ => 0x3
  | .push _ _ => 0x4
  | .atIndex _ _ => 0x5
  | .avg _ => 0x6
  | .save _ _ => 0x7
  | .load _ _ => 0x8

/-- The encoder: the word the assembler writes for an instruction (30_encoding.md R92). -/
def encode : Instr → Word
  | .start => packWord 0x1 0 0
  | .read => packWord 0x2 0 0
  | .init b => packWord 0x3 b.code 0
  | .push b x => packWord 0x4 b.code (x.setWidth 16)
  | .atIndex b i => packWord 0x5 b.code i
  | .avg b => packWord 0x6 b.code 0
  | .save b off => packWord 0x7 b.code off
  | .load b off => packWord 0x8 b.code off

/-- The instruction an assembler line names; none for `.word`, whose word need not be one (30_encoding.md R92). -/
def AsmLine.instr : AsmLine → Option Instr
  | .start => some .start
  | .read => some .read
  | .init b => some (.init (BufId.ofCode (BitVec.ofNat 2 b)))
  | .push b x => some (.push (BufId.ofCode (BitVec.ofNat 2 b)) (BitVec.ofNat 8 x))
  | .atIndex b i => some (.atIndex (BufId.ofCode (BitVec.ofNat 2 b)) (BitVec.ofNat 16 i))
  | .avg b => some (.avg (BufId.ofCode (BitVec.ofNat 2 b)))
  | .save b o => some (.save (BufId.ofCode (BitVec.ofNat 2 b)) (BitVec.ofNat 16 o))
  | .load b o => some (.load (BufId.ofCode (BitVec.ofNat 2 b)) (BitVec.ofNat 16 o))
  | .word _ => none

/-- The word of an assembler line; none is the assembler's error on an operand out of range (30_encoding.md R92). -/
def AsmLine.assemble (l : AsmLine) : Option Word :=
  if l.wellFormed then
    match l with
    | .word w => some (BitVec.ofNat 32 w)
    | _ => l.instr.map encode
  else none

end Sys2Proof
end

