-- ==== Sys2Proof/Machine/State.lean ====
section
/-! DEFINITION. The state of the block (spec/10_state.md R21 to R45), of the storage medium behind its port
(20_memory.md R63) and of what the other agents will do (00_scope.md R13), all of it plain data; the reasons a step can
stop; and the state after reset (10_state.md R48). -/

namespace Sys2Proof.Machine

/-- Error codes as STATUS.ERR holds them (60_exceptions.md R195). Codes 8 to 15 are never written. -/
inductive Err where
  | ok
  | noAckLow
  | noAckHigh
  | bitTimeout
  | checksum
  | indexRange
  | storageBounds
  | illegalOp
  deriving DecidableEq, Repr

/-- Decoder states as STATUS.DSTATE holds them (10_state.md R29). Codes 8 to 15 are never held. -/
inductive DState where
  | idle
  | started
  | release
  | ackLowSeen
  | ackHighSeen
  | rxBits
  | done
  | failed
  deriving DecidableEq, Repr

/-- RESULT (10_state.md R34). -/
structure Result where
  valid : Bool
  value : BitVec 17
  deriving DecidableEq, Repr

/-- READING (10_state.md R33). -/
structure Reading where
  valid : Bool
  temp  : Byte
  hum   : Byte
  deriving DecidableEq, Repr

/-- The five bytes of a frame, `frame[0]` to `frame[4]` (10_state.md R31, R32, 41_decoder.md R132). -/
structure Frame where
  humInt   : Byte
  humFrac  : Byte
  tempInt  : Byte
  tempFrac : Byte
  check    : Byte
  deriving DecidableEq, Repr

/-- The host-visible registers that are state (10_state.md R21 to R35), and `bus_rdata` as it was in the last cycle,
none where the last cycle had no read access (10_state.md R20, 40_command_engine.md R101). -/
structure Regs where
  ie       : Bool
  busy     : Bool
  done     : Bool
  drop     : Bool
  err      : Err
  dstate   : DState
  lastOp   : BitVec 4
  budget   : Half
  result   : Result
  reading  : Reading
  frame    : Frame
  nbits    : BitVec 6
  busRdata : Option Word
  deriving DecidableEq, Repr

/-- A byte memory in its one canonical form: addresses strictly rising. An address it does not list reads as a draw, so
every written byte is listed (20_memory.md R69, 10_state.md R48). -/
abbrev Memory := List Host.Cell

/-- The canonical form of a memory. -/
abbrev Memory.wf (m : Memory) : Prop := m.Pairwise (fun x y => x.1 < y.1)

/-- One sample buffer: its descriptor and its sample memory `SRAM_b` (10_state.md R40, 20_memory.md R60). The capacity
is a parameter. -/
structure Buf where
  start : Half
  count : Half
  sum   : Word
  sram  : Memory
  deriving DecidableEq, Repr

/-- The four sample buffers (10_state.md R40, R42). -/
structure Bufs where
  hs : Buf
  hl : Buf
  ts : Buf
  tl : Buf
  deriving DecidableEq, Repr

/-- The single-wire bus outputs `pin_oe` and `pin_out` (10_state.md R43); true is 1, High. -/
structure Pin where
  oe  : Bool
  out : Bool
  deriving DecidableEq, Repr

/-- Where a READ stands after its tick 0, named after what it waits for (41_decoder.md R123). -/
inductive ReadPhase where
  /-- Driving high, until tick `P1`. -/
  | release
  /-- Input mode, until the ack-low sample at tick `P2`. -/
  | input
  /-- Until the ack-high sample at tick `P3`. -/
  | ackLow
  /-- Until the first poll of bit 0 at tick `P4`. -/
  | ackHigh
  /-- Polling a bit's low phase, one sample a tick. -/
  | low
  /-- The settle delay, until the bit sample at tick `wake`. -/
  | settle (wake : Nat)
  /-- Polling a bit's high phase, one sample a tick. -/
  | high
  /-- The outcome is decided; `finish` happens at the next clock edge (41_decoder.md R133). -/
  | finish (e : Err)
  deriving DecidableEq, Repr

/-- The decoder's hidden state (10_state.md R44): the tick counter `now`, the prescaler, the copied budget `B`, the bit
index `i`, the poll count `k`, the phase, and the synchroniser on `pin_in`, first stage first. -/
structure Decoder where
  now    : Nat
  presc  : Nat
  budget : Half
  bit    : Nat
  polls  : Nat
  phase  : ReadPhase
  sync   : List Bool
  deriving DecidableEq, Repr

/-- The command engine's hidden state (10_state.md R45): the accepted word, whether the command's first step has
happened, the index of the byte of a SAVE or LOAD that is being transferred, and the length a LOAD has read. -/
structure Engine where
  cmd     : Word
  started : Bool
  idx     : Nat
  len     : Half
  deriving DecidableEq, Repr

/-- The storage port's outputs (10_state.md R20, 20_memory.md R65). An access is outstanding while `req` holds. -/
structure Port where
  req   : Bool
  we    : Bool
  addr  : Half
  wdata : Byte
  deriving DecidableEq, Repr

/-- A host register access of one cycle (10_state.md R20, 40_command_engine.md R100, R101). -/
inductive Access where
  | read (addr : BitVec 7)
  | write (addr : BitVec 7) (d : Word)
  deriving DecidableEq, Repr

/-- The host operations, one action of the host in each cycle (30_encoding.md R93, R94, 40_command_engine.md R112).
`pushReading`, `chain` and `chainNext` are those whose later actions depend on what the host reads. -/
inductive HostOp where
  /-- `wr` or `rd`: one bus access. -/
  | bus (a : Access)
  /-- `wait`: read STATUS until BUSY = 0. -/
  | wait
  /-- `n` cycles without an access (one where `n` is 0). -/
  | delay (n : Nat)
  /-- `delay_ms n`: `n` milliseconds without an access. -/
  | delayMs (n : Nat)
  /-- A cycle with `rst = 1`, with or without a bus access (70_reset_and_hazards.md R220). -/
  | reset (a : Option Access)
  /-- `push_reading`: read READING, then push it into the four buffers. -/
  | pushReading
  /-- One block of `save_all` (`load` false) or `load_all` (`load` true) at offset `o`, and then the later buffers. -/
  | chain (load : Bool) (b : BufId) (o : Nat)
  /-- Read RESULT after the block of `b` at `o`; stop if VALID = 0, else go on at `o + VALUE`. -/
  | chainNext (load : Bool) (b : BufId) (o : Nat)
  /-- Another user of the storage medium writes a byte, which is a draw from then on (20_memory.md R69,
  93_implementation_defined.md U3, U9). -/
  | medium (addr : Half)
  deriving DecidableEq, Repr

/-- What the other agents do in the coming cycles (00_scope.md R13), each list one entry a cycle: the host (idle when
the list is empty), the level on `pin_in` and `st_ack` (free values of the cycle when the list is empty); and the
number of clock edges so far. The model's own fields: notes/assumptions/2.md. -/
structure Env where
  host  : List HostOp
  pinIn : List Bool
  stAck : List Bool
  cycle : Nat
  deriving DecidableEq, Repr

/-- The whole state. `storage` is the medium's bytes `M` (20_memory.md R63). -/
structure State where
  params  : Params
  regs    : Regs
  bufs    : Bufs
  pin     : Pin
  dec     : Decoder
  eng     : Engine
  port    : Port
  storage : Memory
  env     : Env
  deriving DecidableEq, Repr

/-- Faults. The spec gives the block none (60_exceptions.md R205). -/
inductive Fault where
  /-- The storage port is acknowledged at an address the medium does not have. Raised by SAVE and LOAD, through
  `storageAccess`, in states no run from reset reaches: the block never issues an access at or beyond STORE_SIZE
  (20_memory.md R63). Safe. -/
  | noSuchStorageByte
  deriving DecidableEq, Repr

/-- Refusals. -/
inductive Refusal where
  /-- An arm of `exec` whose instruction has no meaning yet; raised by `exec` alone. Safe. -/
  | notModelled (mnemonic : String)
  /-- A parameter lies outside its range: the spec refuses such a block at elaboration (00_scope.md R7,
  93_implementation_defined.md U21). Raised by `step`. Safe. -/
  | parametersOutOfRange
  /-- Another agent writes the storage medium while a SAVE or LOAD is in progress, or writes a byte the medium does not
  have: the spec gives a model no move for it (70_reset_and_hazards.md R231, 93_implementation_defined.md U9). Raised by
  `step`. Safe. -/
  | concurrentStorageAccess
  deriving DecidableEq, Repr

/-- RESULT with VALID = 0 and VALUE = 0 (10_state.md R34). -/
def Result.none : Result := { valid := false, value := 0 }

/-- READING with every field 0 (10_state.md R33). -/
def Reading.zero : Reading := { valid := false, temp := 0, hum := 0 }

/-- The frame with every byte 0 (41_decoder.md R132). -/
def Frame.zero : Frame := { humInt := 0, humFrac := 0, tempInt := 0, tempFrac := 0, check := 0 }

/-- A buffer in the source's zeroed state (10_state.md R40); its sample memory lists nothing, since its contents after
reset are unspecified (R48). -/
def Buf.reset : Buf := { start := 0, count := 0, sum := 0, sram := [] }

/-- The state after reset of a block elaborated with `p` (10_state.md R48). The hidden registers' values are DESIGN
CHOICE (notes/assumptions/5.md): R48 calls them unspecified and not observable, and no command reads one before it
writes it, the synchroniser apart; UNSAFE for a claim that leans on one. -/
def State.resetWith (p : Params) : State where
  params := p
  regs := { ie := false, busy := false, done := false, drop := false, err := .ok, dstate := .idle, lastOp := 0,
            budget := BitVec.ofNat 16 p.budgetReset, result := Result.none, reading := Reading.zero,
            frame := Frame.zero, nbits := 0, busRdata := none }
  bufs := { hs := Buf.reset, hl := Buf.reset, ts := Buf.reset, tl := Buf.reset }
  pin := { oe := true, out := true }
  dec := { now := 0, presc := 0, budget := 0, bit := 0, polls := 0, phase := .release,
           sync := List.replicate p.syncStages true }
  eng := { cmd := 0, started := false, idx := 0, len := 0 }
  port := { req := false, we := false, addr := 0, wdata := 0 }
  storage := []
  env := { host := [], pinIn := [], stAck := [], cycle := 0 }

/-- The machine right after reset, in the reference configuration (00_scope.md R7, 10_state.md R48). -/
def State.reset : State := State.resetWith Params.reference

end Sys2Proof.Machine
end

