-- ==== Sys2Proof/Machine/Ops.lean ====
section
/-! DEFINITION. The named operations over the state: byte memories, the four buffers, the pin, the inputs of a cycle,
the storage port's handshake (spec/20_memory.md R65, R66), a command's completion and `raise`
(40_command_engine.md R106). -/

namespace Sys2Proof.Machine

/-- The byte listed at an address; none where nothing has written it. -/
def Memory.read : Memory → Nat → Option Byte
  | [], _ => none
  | (b, w) :: m, a => if b = a then some w else Memory.read m a

/-- Write a byte, keeping the addresses rising. -/
def Memory.write : Memory → Nat → Byte → Memory
  | [], a, v => [(a, v)]
  | (b, w) :: m, a, v =>
    if a < b then (a, v) :: (b, w) :: m
    else if a = b then (a, v) :: m
    else (b, w) :: Memory.write m a v

/-- Forget a byte: from now on it reads as a draw. -/
def Memory.erase : Memory → Nat → Memory
  | [], _ => []
  | (b, w) :: m, a => if b = a then Memory.erase m a else (b, w) :: Memory.erase m a

/-- The buffer a command names (10_state.md R40). -/
def Bufs.get (bs : Bufs) : BufId → Buf
  | .hs => bs.hs
  | .hl => bs.hl
  | .ts => bs.ts
  | .tl => bs.tl

/-- Replace one buffer; no other buffer changes (10_state.md R42). -/
def Bufs.set (bs : Bufs) (b : BufId) (x : Buf) : Bufs :=
  match b with
  | .hs => { bs with hs := x }
  | .hl => { bs with hl := x }
  | .ts => { bs with ts := x }
  | .tl => { bs with tl := x }

/-- `buf[b]`. -/
def State.buf (s : State) (b : BufId) : Buf := s.bufs.get b

/-- `CAPb`. -/
def State.cap (s : State) (b : BufId) : Nat := s.params.cap b

/-- Write `buf[b]` (the descriptor and the sample memory). -/
def State.setBuf (s : State) (b : BufId) (x : Buf) : State := { s with bufs := s.bufs.set b x }

/-- `Drive(oe, out)` (00_scope.md R11, 10_state.md R20). -/
def State.drive (s : State) (oe out : Bool) : State := { s with pin := { oe := oe, out := out } }

/-- `STATUS.DSTATE <- d`. -/
def State.setDState (s : State) (d : DState) : State := { s with regs := { s.regs with dstate := d } }

/-- The level on `pin_in` in this cycle (41_decoder.md R121). -/
def State.levelNow (s : State) : Bool := s.env.pinIn.head?.getD (Config.pinLevel s.env.cycle)

/-- `Sample()`: the last stage of the synchroniser, the level on the bus `SYNC_STAGES` cycles ago (41_decoder.md
R121). -/
def State.sample (s : State) : Bool := s.dec.sync.getLast?.getD s.levelNow

/-- `st_ack` in this cycle (20_memory.md R65). -/
def State.ackNow (s : State) : Bool := s.env.stAck.head?.getD (Config.mediumAck s.env.cycle)

/-- `M[a]` as a read in this cycle finds it: the byte the block wrote last, else a draw (20_memory.md R69). -/
def State.storageRead (s : State) (a : Nat) : Byte :=
  (Memory.read s.storage a).getD (Config.storageByte a s.env.cycle)

/-- `SRAM_b[j]` as a read in this cycle finds it: the byte written last, else a draw (10_state.md R48, U1). -/
def State.sramRead (s : State) (b : BufId) (j : Nat) : Byte :=
  (Memory.read (s.buf b).sram j).getD (Config.sampleByte b j s.env.cycle)

/-- Completion: the outcome is written, BUSY falls, DONE rises, at one edge (40_command_engine.md R106). -/
def State.complete (s : State) (e : Err) (r : Result) : State :=
  { s with regs := { s.regs with err := e, result := r, busy := false, done := true } }

/-- `raise E()`: completion with the error code and RESULT 0, nothing later of the command (40_command_engine.md R106,
60_exceptions.md R205). -/
def State.raise (s : State) (e : Err) : State := s.complete e Result.none

/-- The first step of a command that has more than one has happened (10_state.md R45). -/
def State.begin (s : State) : State := { s with eng := { s.eng with started := true } }

/-- Begin a storage write of byte `j` of a block at `off`: `st_req`, `st_we`, `st_addr`, `st_wdata` from the next cycle
on (20_memory.md R65 step 1). -/
def State.issueWrite (s : State) (off : Half) (j : Nat) (v : Byte) : State :=
  { s with port := { req := true, we := true, addr := BitVec.ofNat 16 (off.toNat + j), wdata := v },
           eng := { s.eng with idx := j } }

/-- Begin a storage read of byte `j` of a block at `off` (20_memory.md R65 step 1). `st_wdata`, which the spec gives for a
write only, keeps its last value: DESIGN CHOICE, notes/assumptions/22.md. -/
def State.issueRead (s : State) (off : Half) (j : Nat) : State :=
  { s with port := { s.port with req := true, we := false, addr := BitVec.ofNat 16 (off.toNat + j) },
           eng := { s.eng with idx := j } }

/-- `st_req <- 0`: no access follows (20_memory.md R65 step 3). `st_we`, `st_addr` and `st_wdata`, which the spec does
not give while `st_req = 0`, keep their last values: DESIGN CHOICE, notes/assumptions/22.md. -/
def State.endAccess (s : State) : State := { s with port := { s.port with req := false } }

/-- Keep the length a LOAD has read, so far or whole (10_state.md R45). -/
def State.setLen (s : State) (l : Half) : State := { s with eng := { s.eng with len := l } }

/-- The medium's side of an acknowledged access: a write stores the byte, a read changes nothing (20_memory.md R66,
R71). -/
def State.performAccess (s : State) : State :=
  if s.port.we then { s with storage := Memory.write s.storage s.port.addr.toNat s.port.wdata } else s

/-- One clock edge with a storage access outstanding (20_memory.md R65): without `st_ack` everything is held; with it
the access is performed and `k` goes on with the byte read, in the state after the access. -/
def State.storageAccess (s : State) (k : Byte → State → State) : Host.Outcome State Fault Refusal :=
  if s.port.req && s.ackNow then
    if s.port.addr.toNat < s.params.storeSize then
      .next (k (s.storageRead s.port.addr.toNat) s.performAccess)
    else .fault .noSuchStorageByte
  else .next s

end Sys2Proof.Machine
end

