-- ==== Sys2Proof/Machine/Operands.lean ====
section
/-! DEFINITION. The operands and places a command computes: the slot of a logical index (spec/42_ring_buffer.md R151,
R153), the bytes of a PersistedBlock (43_persistence.md R175) and the bounds test (R176). Operand fields of the command
word are taken apart in Decode.lean (30_encoding.md R88). -/

namespace Sys2Proof.Machine

/-- The slot of logical index `i` in a buffer of capacity `C`: `(start + i) mod C` (42_ring_buffer.md R153). -/
def Buf.slot (x : Buf) (cap i : Nat) : Nat := (x.start.toNat + i) % cap

/-- `count = C`: the buffer is full (42_ring_buffer.md R151). -/
def Buf.full (x : Buf) (cap : Nat) : Bool := x.count.toNat == cap

/-- `off + 2 + n > STORE_SIZE`, in numbers that do not wrap (43_persistence.md R176, 30_encoding.md R88). -/
def outOfBounds (storeSize : Nat) (off : Half) (n : Nat) : Bool := decide (storeSize < off.toNat + 2 + n)

/-- Byte `j` of the PersistedBlock SAVE writes for buffer `b`: the length, low byte first, then the samples, oldest
first (43_persistence.md R175, 20_memory.md R67). -/
def State.blockByte (s : State) (b : BufId) : Nat → Byte
  | 0 => (s.buf b).count.extractLsb' 0 8
  | 1 => (s.buf b).count.extractLsb' 8 8
  | j + 2 => s.sramRead b ((s.buf b).slot (s.cap b) j)

end Sys2Proof.Machine
end

