-- ==== Sys2Proof/Machine/Flags.lean ====
section
/-! DEFINITION. Codes and register words: error and state codes (spec/60_exceptions.md R195, 10_state.md R29), the
register words of 10_state.md R22 to R38, the interrupt line (60_exceptions.md R203) and the W1C rule
(40_command_engine.md R109). The block has no arithmetic condition codes (10_state.md R47). -/

namespace Sys2Proof.Machine

/-- The number STATUS.ERR holds for an outcome (60_exceptions.md R195). -/
def Err.code : Err → BitVec 4
  | .ok => 0
  | .noAckLow => 1
  | .noAckHigh => 2
  | .bitTimeout => 3
  | .checksum => 4
  | .indexRange => 5
  | .storageBounds => 6
  | .illegalOp => 7

/-- The number STATUS.DSTATE holds for a decoder state (10_state.md R29). -/
def DState.code : DState → BitVec 4
  | .idle => 0
  | .started => 1
  | .release => 2
  | .ackLowSeen => 3
  | .ackHighSeen => 4
  | .rxBits => 5
  | .done => 6
  | .failed => 7

/-- RESULT with VALID = 1 (10_state.md R34). -/
def Result.some (v : Nat) : Result := { valid := true, value := BitVec.ofNat 17 v }

/-- ID (10_state.md R22). -/
def idWord : Word := 0x57540001

/-- CTRL: IE [0] (10_state.md R23). -/
def State.ctrlWord (s : State) : Word := placeField (BitVec.ofBool s.regs.ie) 0

/-- STATUS: LAST_OP [15:12], DSTATE [11:8], ERR [7:4], DROP [2], DONE [1], BUSY [0] (10_state.md R24). -/
def State.statusWord (s : State) : Word :=
  placeField (BitVec.ofBool s.regs.busy) 0 ||| placeField (BitVec.ofBool s.regs.done) 1 |||
  placeField (BitVec.ofBool s.regs.drop) 2 ||| placeField s.regs.err.code 4 |||
  placeField s.regs.dstate.code 8 ||| placeField s.regs.lastOp 12

/-- POLL_BUDGET: BUDGET [15:0] (10_state.md R35). -/
def State.budgetWord (s : State) : Word := placeField s.regs.budget 0

/-- RESULT: VALID [31], VALUE [16:0] (10_state.md R34). -/
def State.resultWord (s : State) : Word :=
  placeField s.regs.result.value 0 ||| placeField (BitVec.ofBool s.regs.result.valid) 31

/-- READING: VALID [31], TEMP [15:8], HUM [7:0] (10_state.md R33). -/
def State.readingWord (s : State) : Word :=
  placeField s.regs.reading.hum 0 ||| placeField s.regs.reading.temp 8 |||
  placeField (BitVec.ofBool s.regs.reading.valid) 31

/-- FRAME0: `frame[0]` [7:0] up to `frame[3]` [31:24] (10_state.md R31, 20_memory.md R68). -/
def State.frame0Word (s : State) : Word :=
  placeField s.regs.frame.humInt 0 ||| placeField s.regs.frame.humFrac 8 |||
  placeField s.regs.frame.tempInt 16 ||| placeField s.regs.frame.tempFrac 24

/-- FRAME1: `frame[4]` [7:0], NBITS [13:8] (10_state.md R32). -/
def State.frame1Word (s : State) : Word :=
  placeField s.regs.frame.check 0 ||| placeField s.regs.nbits 8

/-- CAP01 and CAP23: the first capacity in [15:0], the second in [31:16] (10_state.md R38). -/
def capWord (lo hi : Nat) : Word := placeField (BitVec.ofNat 16 lo) 0 ||| placeField (BitVec.ofNat 16 hi) 16

/-- BUFb_STAT: count [15:0], start [31:16] (10_state.md R36). -/
def Buf.statWord (x : Buf) : Word := placeField x.count 0 ||| placeField x.start 16

/-- `irq = STATUS.DONE AND CTRL.IE`, a level (60_exceptions.md R203). -/
def State.irq (s : State) : Bool := s.regs.done && s.regs.ie

/-- A bus write to STATUS: DONE and DROP are cleared where the written bit is 1 (40_command_engine.md R100). A setting
event of the same edge comes after it and wins (R109). -/
def Regs.w1c (r : Regs) (d : Word) : Regs :=
  { r with done := r.done && !d.getLsbD 1, drop := r.drop && !d.getLsbD 2 }

/-- The value a bus write leaves in POLL_BUDGET.BUDGET: `d[15:0]`, or 1 where that is 0 (40_command_engine.md R110). -/
def budgetOf (d : Word) : Half := if d.extractLsb' 0 16 = 0 then 1 else d.extractLsb' 0 16

end Sys2Proof.Machine
end

