-- ==== Sys2Proof/Machine/Bus.lean ====
section
/-! DEFINITION. The host bus: register reads and writes (spec/40_command_engine.md R100, R101), acceptance and drop of a
command word (R102, R103). -/

namespace Sys2Proof.Machine

/-- A bus read: the register at `bus_addr[6:2] * 4` as it stands before the edge; CMD and unmapped addresses read 0
(40_command_engine.md R101, 10_state.md R21, R39, 20_memory.md R62). -/
def State.readReg (s : State) (addr : BitVec 7) : Word :=
  match (addr.extractLsb' 2 5).toNat with
  | 0 => idWord
  | 1 => s.ctrlWord
  | 2 => s.statusWord
  | 4 => s.budgetWord
  | 5 => s.resultWord
  | 6 => s.readingWord
  | 7 => s.frame0Word
  | 8 => s.frame1Word
  | 9 => capWord s.params.cap0 s.params.cap1
  | 10 => capWord s.params.cap2 s.params.cap3
  | 12 => s.bufs.hs.statWord
  | 13 => s.bufs.hs.sum
  | 14 => s.bufs.hl.statWord
  | 15 => s.bufs.hl.sum
  | 16 => s.bufs.ts.statWord
  | 17 => s.bufs.ts.sum
  | 18 => s.bufs.tl.statWord
  | 19 => s.bufs.tl.sum
  | _ => 0

/-- DSTATE after the acceptance of `w`: RELEASE for a READ (10_state.md R29), which its tick 0 writes again (41_decoder.md
R123, R137; DEDUCED, notes/assumptions/8.md); no other command's acceptance changes it. -/
def State.acceptDState (s : State) (w : Word) : DState := if opField w = 2#4 then .release else s.regs.dstate

/-- Acceptance of a command word: it is held, BUSY and LAST_OP are written, a READ copies the poll budget
and shows RELEASE (40_command_engine.md R102, 41_decoder.md R123, 10_state.md R29). Its first step is at the next edge. -/
def State.accept (s : State) (w : Word) : State :=
  { s with
    regs := { s.regs with busy := true, lastOp := opField w, dstate := s.acceptDState w },
    eng := { s.eng with cmd := w, started := false },
    dec := { s.dec with budget := if opField w = 2 then s.regs.budget else s.dec.budget } }

/-- A CMD write while BUSY = 1: ignored, DROP rises (40_command_engine.md R103). -/
def State.dropCommand (s : State) : State := { s with regs := { s.regs with drop := true } }

/-- A bus write (40_command_engine.md R100, R110, R111); `s` is the state before the edge, so BUSY is judged there. -/
def State.writeReg (s : State) (addr : BitVec 7) (d : Word) : State :=
  match (addr.extractLsb' 2 5).toNat with
  | 1 => { s with regs := { s.regs with ie := d.getLsbD 0 } }
  | 2 => { s with regs := s.regs.w1c d }
  | 3 => if s.regs.busy then s.dropCommand else s.accept d
  | 4 => { s with regs := { s.regs with budget := budgetOf d } }
  | _ => s

/-- What `bus_rdata` carries in a cycle (10_state.md R20). -/
def State.readData (s : State) : Option Access → Option Word
  | some (.read addr) => some (s.readReg addr)
  | _ => none

/-- The bus's part of a clock edge: the access, and `bus_rdata` of the cycle. -/
def State.busEdge (s : State) (a : Option Access) : State :=
  let t := match a with
    | some (.write addr d) => s.writeReg addr d
    | _ => s
  { t with regs := { t.regs with busRdata := s.readData a } }

end Sys2Proof.Machine
end

