-- ==== Sys2Proof/Machine/Agents.lean ====
section
/-! DEFINITION. The host's actions (spec/30_encoding.md R93, R94), the reset edge (70_reset_and_hazards.md R220 to
R223), the illegal command (40_command_engine.md R113) and what every clock edge does to the environment's lists, the
cycle count and the synchroniser. -/

namespace Sys2Proof.Machine

/-- ILLEGAL: completion with ILLEGAL_OP and no other effect (40_command_engine.md R113). -/
def State.execIllegal (s : State) : State := s.raise .illegalOp

/-- The bus access a host action makes in its cycle (30_encoding.md R93, R94). A chain whose offset has no 16-bit ARG
makes none: an operand out of range is an assembler error (R92, notes/assumptions/9.md). -/
def HostOp.access : HostOp → Option Access
  | .bus a => some a
  | .wait => some (.read 0x08)
  | .delay _ => none
  | .delayMs _ => none
  | .reset a => a
  | .pushReading => some (.read 0x18)
  | .chain ld b o =>
    if o < 65536 then
      some (.write 0x0C (encode (if ld then .load b (BitVec.ofNat 16 o) else .save b (BitVec.ofNat 16 o))))
    else none
  | .chainNext _ _ _ => some (.read 0x14)
  | .medium _ => none

/-- A command line of a host program: `wr CMD, <word>`, then `wait` (30_encoding.md R93). -/
def commandOps (i : Instr) : List HostOp := [.bus (.write 0x0C (encode i)), .wait]

/-- The buffer after `b` in the spec's order (00_scope.md R8). -/
def nextBuffer : BufId → Option BufId
  | .hs => some .hl
  | .hl => some .ts
  | .ts => some .tl
  | .tl => none

/-- `push hs, h`; `push hl, h`; `push ts, t`; `push tl, t` (30_encoding.md R94). -/
def pushReadingOps (h t : Byte) : List HostOp :=
  commandOps (.push .hs h) ++ (commandOps (.push .hl h) ++ (commandOps (.push .ts t) ++ commandOps (.push .tl t)))

/-- What is left of a host action after its cycle, in which it read `r` (30_encoding.md R93, R94). -/
def HostOp.rest (p : Params) (r : Word) : HostOp → List HostOp
  | .bus _ => []
  | .wait => if r.getLsbD 0 then [.wait] else []
  | .delay n => if n ≤ 1 then [] else [.delay (n - 1)]
  | .delayMs n => if n * 1000 * p.cycPerUs ≤ 1 then [] else [.delay (n * 1000 * p.cycPerUs - 1)]
  | .reset _ => []
  | .pushReading => pushReadingOps (r.extractLsb' 0 8) (r.extractLsb' 8 8)
  | .chain ld b o => if o < 65536 then [.wait, .chainNext ld b o] else []
  | .chainNext ld b o =>
    if r.getLsbD 31 then
      match nextBuffer b with
      | some b' => [.chain ld b' (o + (r.extractLsb' 0 17).toNat)]
      | none => []
    else []
  | .medium _ => []

/-- `sample`: `start`; `delay_ms 18`; `read` (30_encoding.md R94). -/
def sampleOps : List HostOp := commandOps .start ++ (.delayMs 18 :: commandOps .read)

/-- `clear_all`: `init` of the four buffers (30_encoding.md R94). -/
def clearAllOps : List HostOp :=
  commandOps (.init .hs) ++ (commandOps (.init .hl) ++ (commandOps (.init .ts) ++ commandOps (.init .tl)))

/-- `save_all <base>` (30_encoding.md R94, 43_persistence.md R181). -/
def saveAllOps (base : Nat) : List HostOp := [.chain false .hs base]

/-- `load_all <base>` (30_encoding.md R94, 43_persistence.md R181). -/
def loadAllOps (base : Nat) : List HostOp := [.chain true .hs base]

/-- The bus access of this cycle. -/
def State.accessNow (s : State) : Option Access := s.env.host.head?.bind HostOp.access

/-- The host's list after this cycle, in which a read, if any, returned `r`. -/
def State.hostAfter (s : State) (r : Word) : List HostOp :=
  match s.env.host with
  | [] => []
  | op :: ops => op.rest s.params r ++ ops

/-- The synchroniser after an edge: the level on `pin_in` enters the first stage, every stage moves on (41_decoder.md
R121). -/
def State.syncAfter (s : State) : List Bool := (s.levelNow :: s.dec.sync).take s.dec.sync.length

/-- The end of a clock edge: `s` is the state before it, `t` what the bus and the engine have made of `s`. The lists of
the other agents lose the cycle's entry, the cycle is counted, the synchroniser shifts. -/
def State.closeEdge (s t : State) : State :=
  { t with
    dec := { t.dec with sync := s.syncAfter },
    env := { host := s.hostAfter ((s.readData s.accessNow).getD 0), pinIn := s.env.pinIn.tail,
             stAck := s.env.stAck.tail, cycle := s.env.cycle + 1 } }

/-- A SAVE or LOAD is in progress (70_reset_and_hazards.md R231). -/
def State.storageInUse (s : State) : Bool :=
  s.regs.busy && (opField s.eng.cmd == 7#4 || opField s.eng.cmd == 8#4)

/-- Whether, and why, the spec gives a model no move in this cycle (00_scope.md R7, 93_implementation_defined.md U9,
U21). -/
def State.noMove (s : State) : Option Refusal :=
  if s.params.WellFormed then
    match s.env.host.head? with
    | some (.medium a) =>
      if s.storageInUse || decide (s.params.storeSize ≤ a.toNat) then some .concurrentStorageAccess else none
    | _ => none
  else some .parametersOutOfRange

/-- The host's part of an edge without reset: its bus access, or another agent's write to the medium, whose byte
is a draw from then on (20_memory.md R69). -/
def State.hostEdge (s : State) : State :=
  let t := s.busEdge s.accessNow
  match s.env.host.head? with
  | some (.medium a) => { t with storage := Memory.erase t.storage a.toNat }
  | _ => t

/-- `rst = 1` in this cycle (70_reset_and_hazards.md R220). -/
def State.resetNow (s : State) : Bool :=
  match s.env.host.head? with
  | some (.reset _) => true
  | _ => false

/-- The medium at a reset edge: it keeps its bytes, but the byte of an outstanding access becomes a draw
(20_memory.md R64, 70_reset_and_hazards.md R221, R222). -/
def State.storageAtReset (s : State) : Memory :=
  if s.port.req then Memory.erase s.storage s.port.addr.toNat else s.storage

/-- A reset edge: the state of 10_state.md R48 whatever the block was doing, the medium kept, the other agents going
on; a bus write is ignored and a bus read returns the reset value (70_reset_and_hazards.md R220 to R223). -/
def State.resetEdge (s : State) : State :=
  let r := State.resetWith s.params
  s.closeEdge { r with
    regs := { r.regs with busRdata := r.readData s.accessNow },
    storage := s.storageAtReset }

/-- An outcome with its next state passed on. -/
def onNext (f : State → State) : Host.Outcome State Fault Refusal → Host.Outcome State Fault Refusal
  | .next s => .next (f s)
  | .fault r => .fault r
  | .refused r => .refused r

/-- The state in which `w` has just been accepted and the coming cycle is one without a host access, so that the next
edge is the first step of `w` (40_command_engine.md R102; notes/assumptions/2.md). -/
def State.withCommand (s : State) (w : Word) : State :=
  { s.accept w with env := { s.env with host := .delay 1 :: s.env.host } }

end Sys2Proof.Machine
end

