-- ==== Sys2Proof/Machine/Decoder.lean ====
section
/-! DEFINITION. The protocol decoder: START and READ (spec/41_decoder.md). `execRead` is one clock edge of a READ in
progress; the phase says where the READ stands. -/

namespace Sys2Proof.Machine

/-- START: drive the bus low, DSTATE STARTED, complete (41_decoder.md R122). One step, the first edge after acceptance
(70_reset_and_hazards.md R238). -/
def execStart (s : State) : Host.Outcome State Fault Refusal :=
  .next (((s.drive true false).setDState .started).complete .ok Result.none)

/-- Bit `p` of a byte set to `v`. -/
def setBitOf (x : Byte) (p : Nat) (v : Bool) : Byte :=
  if v then x ||| (1#8 <<< p) else x &&& ~~~(1#8 <<< p)

/-- `frame[i div 8][7 - (i mod 8)] <- v` (41_decoder.md R130, R132). -/
def Frame.setBit (f : Frame) (i : Nat) (v : Bool) : Frame :=
  match i / 8 with
  | 0 => { f with humInt := setBitOf f.humInt (7 - i % 8) v }
  | 1 => { f with humFrac := setBitOf f.humFrac (7 - i % 8) v }
  | 2 => { f with tempInt := setBitOf f.tempInt (7 - i % 8) v }
  | 3 => { f with tempFrac := setBitOf f.tempFrac (7 - i % 8) v }
  | 4 => { f with check := setBitOf f.check (7 - i % 8) v }
  | _ => f

/-- The checksum test: the first four bytes add up to the fifth, mod 256 (41_decoder.md R134). -/
def Frame.sumOk (f : Frame) : Bool :=
  (f.humInt.toNat + f.humFrac.toNat + f.tempInt.toNat + f.tempFrac.toNat) % 256 == f.check.toNat

/-- The phase of the decoder. -/
def State.setPhase (s : State) (p : ReadPhase) : State := { s with dec := { s.dec with phase := p } }

/-- The poll count of the phase. -/
def State.setPolls (s : State) (k : Nat) : State := { s with dec := { s.dec with polls := k } }

/-- The outcome is decided at this tick; `finish` is at the next clock edge (41_decoder.md R120, R133). -/
def State.decideRead (s : State) (e : Err) : State := s.setPhase (.finish e)

/-- Tick 0: the frame and NBITS cleared, the bus driven high, DSTATE RELEASE, the time base restarted (41_decoder.md
R120, R123, R124, R132). -/
def State.readBegin (s : State) : State :=
  let t := s.begin.drive true true
  { t with
    regs := { t.regs with frame := Frame.zero, nbits := 0, dstate := .release },
    dec := { t.dec with now := 0, presc := 0, bit := 0, polls := 0, phase := .release } }

/-- A poll of a low phase has read `v`: 1 ends the phase and starts the settle delay; 0 goes on polling until the
budget is used up (41_decoder.md R128, R129). `t` is this tick. -/
def State.lowPoll (s : State) (t : Nat) (v : Bool) : State :=
  if v then s.setPhase (.settle (t + s.params.tSettle))
  else if s.dec.polls = s.dec.budget.toNat then s.decideRead .bitTimeout
  else s.setPhase .low

/-- A poll of a bit's high phase has read `v`: 1 goes on polling until the budget is used up; 0 ends the bit, and is
the first poll of the next bit's low phase, or after bit 39 the checksum decides (41_decoder.md R128, R129, R131,
R134). -/
def State.highPoll (s : State) (t : Nat) (v : Bool) : State :=
  if v then
    if s.dec.polls = s.dec.budget.toNat then s.decideRead .bitTimeout else s.setPhase .high
  else
    let u := { s with dec := { s.dec with bit := s.dec.bit + 1, polls := 1 } }
    if u.dec.bit < 40 then u.lowPoll t false
    else u.decideRead (if u.regs.frame.sumOk then .ok else .checksum)

/-- The bit sample: written to its place in the frame, NBITS counted, and taken as the first poll of the high phase
(41_decoder.md R130, R131). -/
def State.bitSample (s : State) (t : Nat) (v : Bool) : State :=
  let u := { s with
    regs := { s.regs with frame := s.regs.frame.setBit s.dec.bit v, nbits := BitVec.ofNat 6 (s.dec.bit + 1) } }
  (u.setPolls 1).highPoll t v

/-- What the decoder does at tick `t ≥ 1` (41_decoder.md R123 to R131). -/
def State.readTick (s : State) (t : Nat) : State :=
  match s.dec.phase with
  | .release => if s.params.p1 ≤ t then (s.drive false s.pin.out).setPhase .input else s
  | .input =>
    if s.params.p2 ≤ t then
      if s.sample then s.decideRead .noAckLow else (s.setDState .ackLowSeen).setPhase .ackLow
    else s
  | .ackLow =>
    if s.params.p3 ≤ t then
      if s.sample then (s.setDState .ackHighSeen).setPhase .ackHigh else s.decideRead .noAckHigh
    else s
  | .ackHigh => if s.params.p4 ≤ t then ((s.setDState .rxBits).setPolls 1).lowPoll t s.sample else s
  | .low => (s.setPolls (s.dec.polls + 1)).lowPoll t s.sample
  | .settle wake => if wake ≤ t then s.bitSample t s.sample else s
  | .high => (s.setPolls (s.dec.polls + 1)).highPoll t s.sample
  | .finish _ => s

/-- One clock edge between ticks or at one: the prescaler counts `CYC_PER_US` edges to a tick (41_decoder.md R120). -/
def State.readClock (s : State) : State :=
  if s.dec.presc + 1 < s.params.cycPerUs then { s with dec := { s.dec with presc := s.dec.presc + 1 } }
  else
    let t := s.dec.now + 1
    let u := { s with dec := { s.dec with now := t, presc := 0 } }
    u.readTick t

/-- READING of a good frame (41_decoder.md R135). -/
def Reading.ofFrame (f : Frame) : Reading := { valid := true, temp := f.tempInt, hum := f.humInt }

/-- RESULT of a good frame: `{TEMP, HUM}` (10_state.md R34, 41_decoder.md R135). -/
def Result.ofFrame (f : Frame) : Result := Result.some (f.tempInt.toNat * 256 + f.humInt.toNat)

/-- `finish(e)`: the bus driven high whatever the outcome, READING, DSTATE and completion (41_decoder.md R133, R135,
R136). The decoder's hidden state, any value between READs (10_state.md R44, U17), keeps what this READ left: DESIGN
CHOICE, notes/assumptions/23.md. -/
def State.readFinish (s : State) (e : Err) : State :=
  let t := s.drive true true
  if e = .ok then
    ({ t with regs := { t.regs with reading := Reading.ofFrame t.regs.frame, dstate := .done } }).complete .ok
      (Result.ofFrame t.regs.frame)
  else
    ({ t with regs := { t.regs with reading := Reading.zero, dstate := .failed } }).complete e Result.none

/-- READ: one clock edge of it (41_decoder.md R123). -/
def execRead (s : State) : Host.Outcome State Fault Refusal :=
  .next (
    if s.eng.started then
      match s.dec.phase with
      | .finish e => s.readFinish e
      | _ => s.readClock
    else s.readBegin)

end Sys2Proof.Machine
end

