-- ==== Sys2Proof/Machine/Buffer.lean ====
section
/-! DEFINITION. The sample ring buffers: INIT, PUSH, AT, AVG (spec/42_ring_buffer.md). Each command is one engine step,
the first edge after its acceptance (70_reset_and_hazards.md R239, notes/assumptions/7.md). -/

namespace Sys2Proof.Machine

/-- The descriptor zeroed, the sample memory kept (42_ring_buffer.md R150). -/
def Buf.clear (x : Buf) : Buf := { x with start := 0, count := 0, sum := 0 }

/-- The body of PUSH on one buffer, `old` being what `SRAM_b[start]` reads as before the write (42_ring_buffer.md
R151). -/
def Buf.push (x : Buf) (cap : Nat) (old v : Byte) : Buf :=
  let sram := Memory.write x.sram (x.slot cap x.count.toNat) v
  if x.full cap then
    { start := BitVec.ofNat 16 ((x.start.toNat + 1) % cap), count := x.count,
      sum := x.sum - old.setWidth 32 + v.setWidth 32, sram := sram }
  else
    { start := x.start, count := x.count + 1, sum := x.sum + v.setWidth 32, sram := sram }

/-- The body of PUSH without its completion, which LOAD repeats (42_ring_buffer.md R151, 43_persistence.md R177). -/
def State.pushStep (s : State) (b : BufId) (v : Byte) : State :=
  s.setBuf b ((s.buf b).push (s.cap b) (s.sramRead b (s.buf b).start.toNat) v)

/-- INIT (42_ring_buffer.md R150). -/
def execInit (b : BufId) (s : State) : Host.Outcome State Fault Refusal :=
  .next ((s.setBuf b (s.buf b).clear).complete .ok Result.none)

/-- PUSH (42_ring_buffer.md R151). -/
def execPush (b : BufId) (v : Byte) (s : State) : Host.Outcome State Fault Refusal :=
  .next ((s.pushStep b v).complete .ok Result.none)

/-- AT (42_ring_buffer.md R153). -/
def execAtIndex (b : BufId) (i : Half) (s : State) : Host.Outcome State Fault Refusal :=
  .next (
    if (s.buf b).count.toNat ≤ i.toNat then s.raise .indexRange
    else s.complete .ok (Result.some (s.sramRead b ((s.buf b).slot (s.cap b) i.toNat)).toNat))

/-- AVG (42_ring_buffer.md R154). -/
def execAvg (b : BufId) (s : State) : Host.Outcome State Fault Refusal :=
  .next (
    if (s.buf b).count = 0 then s.complete .ok Result.none
    else s.complete .ok (Result.some ((s.buf b).sum.toNat / (s.buf b).count.toNat)))

end Sys2Proof.Machine
end

