-- ==== Sys2Proof/Machine/Persist.lean ====
section
/-! DEFINITION. The persistence codec: SAVE and LOAD (spec/43_persistence.md). Each meaning is one clock edge of the
command in progress: its first step, or an edge of the storage handshake (20_memory.md R65). -/

namespace Sys2Proof.Machine

/-- After the write of byte `j` of SAVE's block: the next byte, or completion with the number of bytes written
(43_persistence.md R175). -/
def State.saveNext (b : BufId) (off : Half) (s : State) : State :=
  let n := (s.buf b).count.toNat
  let j := s.eng.idx + 1
  if j < n + 2 then s.issueWrite off j (s.blockByte b j)
  else s.endAccess.complete .ok (Result.some (n + 2))

/-- SAVE: the bounds test before any access, then the block byte by byte (43_persistence.md R175, R176). -/
def execSave (b : BufId) (off : Half) (s : State) : Host.Outcome State Fault Refusal :=
  if s.eng.started then s.storageAccess (fun _ t => t.saveNext b off)
  else if outOfBounds s.params.storeSize off (s.buf b).count.toNat then .next (s.raise .storageBounds)
  else .next (s.begin.issueWrite off 0 (s.blockByte b 0))

/-- After the read of byte `j` of LOAD's block, which was `x`: the length's low byte is kept; its high byte gives the
length and the block's bounds are tested; a sample is pushed (43_persistence.md R177, R178, 20_memory.md R67). -/
def State.loadNext (b : BufId) (off : Half) (x : Byte) (s : State) : State :=
  match s.eng.idx with
  | 0 => (s.setLen (0#8 ++ x)).issueRead off 1
  | 1 =>
    let len : Half := x ++ s.eng.len.extractLsb' 0 8
    let t := s.setLen len
    if outOfBounds s.params.storeSize off len.toNat then t.endAccess.raise .storageBounds
    else if len = 0 then t.endAccess.complete .ok (Result.some 2)
    else t.issueRead off 2
  | j + 2 =>
    let t := s.pushStep b x
    if j + 1 < s.eng.len.toNat then t.issueRead off (j + 3)
    else t.endAccess.complete .ok (Result.some (s.eng.len.toNat + 2))

/-- LOAD: the buffer re-initialised, the header's bounds tested, then the block byte by byte (43_persistence.md R177,
R178). -/
def execLoad (b : BufId) (off : Half) (s : State) : Host.Outcome State Fault Refusal :=
  if s.eng.started then s.storageAccess (fun x t => t.loadNext b off x)
  else
    let t := s.setBuf b (s.buf b).clear
    if outOfBounds s.params.storeSize off 0 then .next (t.raise .storageBounds)
    else .next (t.begin.issueRead off 0)

end Sys2Proof.Machine
end

