-- ==== Sys2Proof/Machine/Dispatch.lean ====
section
/-! DEFINITION. One arm per command (spec/30_encoding.md R86): one clock edge of the engine with that command in
progress. -/

namespace Sys2Proof.Machine

def exec (i : Instr) (s : State) : Host.Outcome State Fault Refusal :=
  match i with
  | .start => Sys2Proof.Machine.execStart s
  | .read => Sys2Proof.Machine.execRead s
  | .init b => Sys2Proof.Machine.execInit b s
  | .push b x => Sys2Proof.Machine.execPush b x s
  | .atIndex b k => Sys2Proof.Machine.execAtIndex b k s
  | .avg b => Sys2Proof.Machine.execAvg b s
  | .save b off => Sys2Proof.Machine.execSave b off s
  | .load b off => Sys2Proof.Machine.execLoad b off s

end Sys2Proof.Machine
end

