-- ==== Sys2Proof/Machine/Step.lean ====
section
/-! DEFINITION. One step is one rising clock edge (spec/10_state.md R20), at which the bus and the engine act on the
state before it (40_command_engine.md R108). -/

namespace Sys2Proof.Machine

/-- One clock edge: reset, else the host's access and then, if a command was in progress before the edge, one engine
step of it (40_command_engine.md R100 to R104, R108, 30_encoding.md R91). The bus acts first, so that a completion wins
over a W1C write (R109). -/
def step (s : State) : Host.Outcome State Fault Refusal :=
  match s.noMove with
  | some r => .refused r
  | none =>
    if s.resetNow then .next s.resetEdge
    else if s.regs.busy then
      match decode s.eng.cmd with
      | .instr i => onNext s.closeEdge (exec i s.hostEdge)
      | .illegal _ => .next (s.closeEdge s.hostEdge.execIllegal)
    else .next (s.closeEdge s.hostEdge)

/-- `s` with the command word `w` (its bits above `nbits` zero) just accepted, so that the next step runs it. -/
def State.withFetchWord (s : State) (nbits w : Nat) : State := s.withCommand (BitVec.ofNat 32 (w % 2 ^ nbits))

end Sys2Proof.Machine
end

