-- ==== Sys2Proof/Machine/Assembler.lean ====
section
/-! DEFINITION. The text of a host program (spec/30_encoding.md R92 to R94): one line of it becomes the host actions it
stands for, or none where the assembler refuses the line. It is a tool beside the block: `step` does not use it. -/

namespace Sys2Proof.Machine

/-- Drop the blanks before and after. 30_encoding.md R92 names no blank characters; the space alone is one here, so a
line with a tab is refused: DESIGN CHOICE, notes/assumptions/24.md. -/
def trimChars (cs : List Char) : List Char :=
  (((cs.dropWhile (· == ' ')).reverse).dropWhile (· == ' ')).reverse

/-- Cut at every comma. -/
def splitCommas (cs : List Char) : List (List Char) :=
  cs.foldr (fun c acc =>
    if c == ',' then [] :: acc
    else match acc with
      | a :: as => (c :: a) :: as
      | [] => [[c]]) [[]]

/-- A line without its comment (`;` starts one): the mnemonic, up to the first space, and the operands (30_encoding.md
R92; the space as separator: DESIGN CHOICE, notes/assumptions/24.md). -/
def lineTokens (line : String) : String × List String :=
  let code := trimChars (line.toList.takeWhile (· != ';'))
  let rest := trimChars (code.dropWhile (· != ' '))
  (String.ofList (code.takeWhile (· != ' ')),
   if rest.isEmpty then [] else (splitCommas rest).map (fun o => String.ofList (trimChars o)))

/-- The value of a digit below `base`. -/
def digitOf (base : Nat) (c : Char) : Option Nat :=
  let n := c.toNat
  let d := if 48 ≤ n ∧ n ≤ 57 then some (n - 48)
    else if 97 ≤ n ∧ n ≤ 102 then some (n - 87)
    else if 65 ≤ n ∧ n ≤ 70 then some (n - 55)
    else none
  d.filter (· < base)

/-- A number in decimal or with `0x` (30_encoding.md R92). Every `_` is dropped, wherever it stands, before the prefix is
looked for: the spec's own programs group digits with it (95_test_vectors.md PG5), and R92 does not say where it may
stand: DESIGN CHOICE, notes/assumptions/18.md. -/
def parseNumber (s : String) : Option Nat :=
  let digits := fun (base : Nat) (cs : List Char) =>
    if cs.isEmpty then none
    else cs.foldl (fun acc c => acc.bind fun n => (digitOf base c).map (n * base + ·)) (some 0)
  match s.toList.filter (· != '_') with
  | '0' :: 'x' :: cs => digits 16 cs
  | cs => digits 10 cs

/-- `<buf>`: `hs`, `hl`, `ts`, `tl`, or one digit 0 to 3, and nothing else (30_encoding.md R92). -/
def parseBuf (s : String) : Option Nat :=
  match s with
  | "hs" => some 0
  | "hl" => some 1
  | "ts" => some 2
  | "tl" => some 3
  | "0" => some 0
  | "1" => some 1
  | "2" => some 2
  | "3" => some 3
  | _ => none

/-- `<reg>`: a register's name, or its byte address (10_state.md R21, 30_encoding.md R93). -/
def parseReg (s : String) : Option (BitVec 7) :=
  match s with
  | "ID" => some 0x00
  | "CTRL" => some 0x04
  | "STATUS" => some 0x08
  | "CMD" => some 0x0C
  | "POLL_BUDGET" => some 0x10
  | "RESULT" => some 0x14
  | "READING" => some 0x18
  | "FRAME0" => some 0x1C
  | "FRAME1" => some 0x20
  | "CAP01" => some 0x24
  | "CAP23" => some 0x28
  | "BUF0_STAT" => some 0x30
  | "BUF0_SUM" => some 0x34
  | "BUF1_STAT" => some 0x38
  | "BUF1_SUM" => some 0x3C
  | "BUF2_STAT" => some 0x40
  | "BUF2_SUM" => some 0x44
  | "BUF3_STAT" => some 0x48
  | "BUF3_SUM" => some 0x4C
  | _ => (parseNumber s).bind fun n => if n < 128 then some (BitVec.ofNat 7 n) else none

/-- A command line as an assembler line (30_encoding.md R92); none where the line is no command line. -/
def parseCommand (mn : String) (ops : List String) : Option AsmLine :=
  match mn, ops with
  | "start", [] => some .start
  | "read", [] => some .read
  | "init", [b] => (parseBuf b).map .init
  | "push", [b, x] => (parseBuf b).bind fun b => (parseNumber x).map (.push b)
  | "at", [b, i] => (parseBuf b).bind fun b => (parseNumber i).map (.atIndex b)
  | "avg", [b] => (parseBuf b).map .avg
  | "save", [b, o] => (parseBuf b).bind fun b => (parseNumber o).map (.save b)
  | "load", [b, o] => (parseBuf b).bind fun b => (parseNumber o).map (.load b)
  | ".word", [w] => (parseNumber w).map .word
  | _, _ => none

/-- A host operation or a pseudo-instruction that is no command line (30_encoding.md R93, R94). A written `<base>` that
is no imm16 is an assembler error, as it is in the `save hs, <base>` it expands into (R92): DEDUCED,
notes/assumptions/9.md. -/
def parseHost (mn : String) (ops : List String) : Option (List HostOp) :=
  match mn, ops with
  | "wr", [r, v] => (parseReg r).bind fun r => (parseNumber v).bind fun v =>
      if v < 4294967296 then some [.bus (.write r (BitVec.ofNat 32 v))] else none
  | "rd", [r] => (parseReg r).map fun r => [.bus (.read r)]
  | "wait", [] => some [.wait]
  | "delay_ms", [n] => (parseNumber n).map fun n => [.delayMs n]
  | "sample", [] => some sampleOps
  | "push_reading", [] => some [.pushReading]
  | "clear_all", [] => some clearAllOps
  | "save_all", [b] => (parseNumber b).bind fun n => if n < 65536 then some (saveAllOps n) else none
  | "load_all", [b] => (parseNumber b).bind fun n => if n < 65536 then some (loadAllOps n) else none
  | _, _ => none

/-- One line of a host program: a command line is `wr CMD, <word>` and `wait`; a blank or a comment is nothing
(30_encoding.md R92 to R94). -/
def assembleLine (line : String) : Option (List HostOp) :=
  match lineTokens line with
  | ("", []) => some []
  | (mn, ops) =>
    match parseCommand mn ops with
    | some l => l.assemble.map fun w => [.bus (.write 0x0C w), .wait]
    | none => parseHost mn ops

/-- A whole host program; none where one of its lines is refused. -/
def assembleProgram : List String → Option (List HostOp)
  | [] => some []
  | l :: ls => (assembleLine l).bind fun a => (assembleProgram ls).map (a ++ ·)

end Sys2Proof.Machine
end

