-- ==== Sys2Proof/Safety.lean ====
section
/-! DEFINITION. The terms claims use: a buffer's logical contents, the invariants of the machine (spec/10_state.md R41,
20_memory.md R63, 42_ring_buffer.md R157), and READ, SAVE and LOAD as functions of what a whole command sees
(41_decoder.md R123, 43_persistence.md R175, R177), against which the clocked machine is held. -/

namespace Sys2Proof.Machine

/-- The byte listed in the slot of each logical index, oldest first (42_ring_buffer.md R153, 10_state.md R41 I3). -/
def Buf.cells (x : Buf) (cap : Nat) : List (Option Byte) :=
  (List.range x.count.toNat).map fun i => Memory.read x.sram (x.slot cap i)

/-- The logical contents, oldest first; a slot that lists nothing counts as 0, which `Buf.Inv` rules out. -/
def Buf.logical (x : Buf) (cap : Nat) : List Byte := (x.cells cap).map fun c => c.getD 0

/-- The exact total of some samples. -/
def total (vs : List Byte) : Nat := (vs.map BitVec.toNat).sum

/-- The buffer invariants I1 and I2 (10_state.md R41), every readable slot written (42_ring_buffer.md R157), and the
sample memory canonical and within its capacity (20_memory.md R60). -/
abbrev Buf.Inv (x : Buf) (cap : Nat) : Prop :=
  x.start.toNat < cap ∧ x.count.toNat ≤ cap ∧ x.sum.toNat = total (x.logical cap) ∧
  (∀ c ∈ x.cells cap, c.isSome = true) ∧ Memory.wf x.sram ∧ ∀ c ∈ x.sram, c.1 < cap

/-- The storage port against the command in progress: an access is outstanding exactly while a SAVE or LOAD has begun
and not ended, it is the byte `idx` of the command's block, and the block, as far as its length is known, lies in the
medium (20_memory.md R63, R65, 43_persistence.md R176, R178). -/
abbrev State.TransferInv (s : State) : Prop :=
  if s.regs.busy = true ∧ s.eng.started = true then
    match decode s.eng.cmd with
    | .instr (.save b off) =>
      s.port.req = true ∧ s.port.we = true ∧ s.port.addr.toNat = off.toNat + s.eng.idx ∧
      s.eng.idx < (s.buf b).count.toNat + 2 ∧ off.toNat + 2 + (s.buf b).count.toNat ≤ s.params.storeSize
    | .instr (.load _ off) =>
      s.port.req = true ∧ s.port.we = false ∧ s.port.addr.toNat = off.toNat + s.eng.idx ∧
      off.toNat + 2 ≤ s.params.storeSize ∧
      (2 ≤ s.eng.idx → s.eng.idx < s.eng.len.toNat + 2 ∧ off.toNat + 2 + s.eng.len.toNat ≤ s.params.storeSize)
    | _ => s.port.req = false
  else s.port.req = false

/-- The invariant of the machine. -/
abbrev State.Inv (s : State) : Prop :=
  s.params.WellFormed ∧
  ((s.buf .hs).Inv (s.cap .hs) ∧ (s.buf .hl).Inv (s.cap .hl) ∧ (s.buf .ts).Inv (s.cap .ts) ∧
    (s.buf .tl).Inv (s.cap .tl)) ∧
  (Memory.wf s.storage ∧ ∀ c ∈ s.storage, c.1 < s.params.storeSize) ∧
  s.TransferInv

/-- A READ is in progress and its tick 0 has been. -/
abbrev State.inRead (s : State) : Prop :=
  s.regs.busy = true ∧ decode s.eng.cmd = .instr .read ∧ s.eng.started = true

/-- The decoder's invariant: the poll budget is never 0 (10_state.md R35), an accepted READ shows RELEASE before its tick 0
(R29), the synchroniser keeps its stages (41_decoder.md R121), and in a READ the prescaler, the bit index, the poll count, NBITS and the pin stand as
41_decoder.md R123 to R132 and R138 say. -/
abbrev State.DecoderInv (s : State) : Prop :=
  s.regs.budget ≠ 0 ∧
  (s.regs.busy = true → decode s.eng.cmd = .instr .read →
    s.dec.budget ≠ 0 ∧ (s.eng.started = false → s.regs.dstate = .release)) ∧
  s.dec.sync.length = s.params.syncStages ∧
  s.regs.nbits.toNat ≤ 40 ∧
  (s.inRead →
    s.dec.presc < s.params.cycPerUs ∧ s.dec.bit ≤ 40 ∧
    match s.dec.phase with
    | .release => s.pin = { oe := true, out := true } ∧ s.regs.dstate = .release ∧ s.regs.nbits = 0 ∧ s.dec.bit = 0
    | .input => s.pin.oe = false ∧ s.regs.dstate = .release ∧ s.regs.nbits = 0 ∧ s.dec.bit = 0
    | .ackLow => s.pin.oe = false ∧ s.regs.dstate = .ackLowSeen ∧ s.regs.nbits = 0 ∧ s.dec.bit = 0
    | .ackHigh => s.pin.oe = false ∧ s.regs.dstate = .ackHighSeen ∧ s.regs.nbits = 0 ∧ s.dec.bit = 0
    | .low => s.pin.oe = false ∧ s.regs.dstate = .rxBits ∧ s.dec.bit < 40 ∧ s.regs.nbits.toNat = s.dec.bit ∧
        1 ≤ s.dec.polls ∧ s.dec.polls < s.dec.budget.toNat
    | .settle _ => s.pin.oe = false ∧ s.regs.dstate = .rxBits ∧ s.dec.bit < 40 ∧ s.regs.nbits.toNat = s.dec.bit
    | .high => s.pin.oe = false ∧ s.regs.dstate = .rxBits ∧ s.dec.bit < 40 ∧ s.regs.nbits.toNat = s.dec.bit + 1 ∧
        1 ≤ s.dec.polls ∧ s.dec.polls < s.dec.budget.toNat
    | .finish _ => s.pin.oe = false)

/-- The level on `pin_in` in the `k`-th cycle from now (41_decoder.md R121). -/
def State.levelAt (s : State) (k : Nat) : Bool := (s.env.pinIn[k]?).getD (Config.pinLevel (s.env.cycle + k))

/-- What `Sample()` will return at the `k`-th edge from now: a level already in the synchroniser, or the level
`SYNC_STAGES` cycles before that edge (41_decoder.md R121). -/
def State.sampleAt (s : State) (k : Nat) : Bool :=
  if k < s.dec.sync.length then (s.dec.sync[s.dec.sync.length - 1 - k]?).getD false
  else s.levelAt (k - s.dec.sync.length)

/-- `st_ack` in the `k`-th cycle from now (20_memory.md R65). -/
def State.ackAt (s : State) (k : Nat) : Bool := (s.env.stAck[k]?).getD (Config.mediumAck (s.env.cycle + k))

/-- The byte a storage read finds at `a` in the `k`-th cycle from now, where nothing writes it until then: the byte
written last, else that cycle's draw (20_memory.md R69). -/
def State.byteAt (s : State) (k a : Nat) : Byte :=
  (Memory.read s.storage a).getD (Config.storageByte a (s.env.cycle + k))

/-- What a READ decides, and at which tick. -/
structure ReadOutcome where
  err   : Err
  frame : Frame
  nbits : Nat
  tick  : Nat
  deriving DecidableEq, Repr

/-- The first of the at most `budget` polls from tick `t` on that reads `want`, counted from `t`; none where all of
them read the other level (41_decoder.md R128). -/
def firstPoll (budget : Nat) (smp : Nat → Bool) (t : Nat) (want : Bool) : Option Nat :=
  (List.range budget).find? fun j => smp (t + j) == want

/-- The reception of the last `n` bits, from bit `i` on, whose low phase has its first poll at tick `t`
(41_decoder.md R123 step 5, R128 to R132, R134). -/
def receiveBits (budget settle : Nat) (smp : Nat → Bool) : Nat → Nat → Nat → Frame → ReadOutcome
  | 0, i, t, f => { err := if f.sumOk then .ok else .checksum, frame := f, nbits := i, tick := t }
  | n + 1, i, t, f =>
    match firstPoll budget smp t true with
    | none => { err := .bitTimeout, frame := f, nbits := i, tick := t + budget - 1 }
    | some j =>
      let u := t + j + settle
      let f' := f.setBit i (smp u)
      match firstPoll budget smp u false with
      | none => { err := .bitTimeout, frame := f', nbits := i + 1, tick := u + budget - 1 }
      | some k => receiveBits budget settle smp n (i + 1) (u + k) f'

/-- READ as the pseudocode of 41_decoder.md R123 has it, `smp t` being the sample at tick `t`. -/
def readOutcome (p : Params) (budget : Nat) (smp : Nat → Bool) : ReadOutcome :=
  if smp p.p2 then { err := .noAckLow, frame := Frame.zero, nbits := 0, tick := p.p2 }
  else if smp p.p3 then receiveBits budget p.tSettle smp 40 0 p.p4 Frame.zero
  else { err := .noAckHigh, frame := Frame.zero, nbits := 0, tick := p.p3 }

/-- Bytes written from an address on, in ascending order. -/
def Memory.writeBytes : Memory → Nat → List Byte → Memory
  | m, _, [] => m
  | m, a, v :: vs => Memory.writeBytes (Memory.write m a v) (a + 1) vs

/-- The PersistedBlock of some samples: the 16-bit length, low byte first, and the samples (43_persistence.md R175). -/
def persistedBlock (vs : List Byte) : List Byte :=
  (BitVec.ofNat 16 vs.length).extractLsb' 0 8 :: (BitVec.ofNat 16 vs.length).extractLsb' 8 8 :: vs

/-- The memory holds these bytes from an address on. -/
def Memory.holds (m : Memory) (a : Nat) (vs : List Byte) : Prop :=
  ∀ j (h : j < vs.length), Memory.read m (a + j) = some vs[j]

/-- Pushes in order, each evicting the oldest sample of a full buffer (42_ring_buffer.md R151, R158). -/
def Buf.pushAll (x : Buf) (cap : Nat) (vs : List Byte) : Buf :=
  vs.foldl (fun y v => y.push cap ((Memory.read y.sram y.start.toNat).getD 0) v) x

/-- The command `i` has just been accepted, and the host will make no more accesses. -/
abbrev State.justAccepted (s : State) (i : Instr) : Prop :=
  s.regs.busy = true ∧ decode s.eng.cmd = .instr i ∧ s.eng.started = false ∧ s.env.host = []

/-- STATUS, RESULT and the engine as a completion leaves them (40_command_engine.md R106). -/
abbrev State.completedWith (s : State) (e : Err) (r : Result) : Prop :=
  s.regs.busy = false ∧ s.regs.done = true ∧ s.regs.err = e ∧ s.regs.result = r

/-- The buffer a command can write (42_ring_buffer.md R150, R151, 43_persistence.md R177); none for the others. -/
def writtenBuffer : Instr → Option BufId
  | .init b => some b
  | .push b _ => some b
  | .load b _ => some b
  | .start => none
  | .read => none
  | .atIndex _ _ => none
  | .avg _ => none
  | .save _ _ => none

/-- Every byte of the storage medium reads as before. -/
abbrev State.KeepsStorage (s t : State) : Prop := ∀ a, Memory.read t.storage a = Memory.read s.storage a

/-- Every byte of every sample memory reads as before. -/
abbrev State.KeepsSamples (s t : State) : Prop := ∀ b j, Memory.read (t.buf b).sram j = Memory.read (s.buf b).sram j

/-- `start`, `count` and `sum` of a buffer are as before. -/
abbrev State.KeepsDescriptor (s t : State) (b : BufId) : Prop :=
  (t.buf b).start = (s.buf b).start ∧ (t.buf b).count = (s.buf b).count ∧ (t.buf b).sum = (s.buf b).sum

/-- The registers that only the host and acceptance write: CTRL.IE, STATUS.DROP, LAST_OP, POLL_BUDGET, `bus_rdata`
(10_state.md R47, 40_command_engine.md R100, R102). -/
abbrev State.KeepsHostRegs (s t : State) : Prop :=
  t.regs.ie = s.regs.ie ∧ t.regs.drop = s.regs.drop ∧ t.regs.lastOp = s.regs.lastOp ∧
  t.regs.budget = s.regs.budget ∧ t.regs.busRdata = s.regs.busRdata

/-- What only START and READ write: the pin, DSTATE, READING, FRAME, NBITS and the decoder (10_state.md R29, R31 to R33,
R43). -/
abbrev State.KeepsDecoder (s t : State) : Prop :=
  t.pin = s.pin ∧ t.dec = s.dec ∧ t.regs.dstate = s.regs.dstate ∧ t.regs.reading = s.regs.reading ∧
  t.regs.frame = s.regs.frame ∧ t.regs.nbits = s.regs.nbits

/-- The host writes `d` to the register with index `r` (`bus_addr[6:2]`) in this cycle. -/
def State.writesNow (s : State) (r : Nat) : Option Word :=
  match s.accessNow with
  | some (.write addr d) => if (addr.extractLsb' 2 5).toNat = r then some d else none
  | _ => none

/-- A W1C write to STATUS with bit `k` set in this cycle (40_command_engine.md R109). -/
def State.clearsNow (s : State) (k : Nat) : Bool := ((s.writesNow 2).getD 0).getLsbD k

/-- Bit `i` of the stream as the frame holds it: bit `7 - (i mod 8)` of byte `i div 8` (41_decoder.md R132). -/
def Frame.bit (f : Frame) (i : Nat) : Bool :=
  (match i / 8 with
    | 0 => f.humInt
    | 1 => f.humFrac
    | 2 => f.tempInt
    | 3 => f.tempFrac
    | _ => f.check).getLsbD (7 - i % 8)

/-- This edge is a tick of the READ, and its number is `t` (41_decoder.md R120). -/
abbrev State.atTick (s : State) (t : Nat) : Prop :=
  s.eng.started = true ∧ s.dec.presc + 1 = s.params.cycPerUs ∧ s.dec.now + 1 = t

/-- This edge is one at which the outstanding storage access is acknowledged, at an address the medium has
(20_memory.md R65). -/
abbrev State.acknowledged (s : State) : Prop :=
  s.eng.started = true ∧ s.port.req = true ∧ s.ackNow = true ∧ s.port.addr.toNat < s.params.storeSize

end Sys2Proof.Machine
end

