-- ==== Sys2Proof/Certificates/Slice0/Obligations.lean ====
section
/-! DEFINITION. The statements for the provers, each from the numbered rules of spec/. `exec i s` is one clock edge of the
engine with `i` in progress, `step` one clock edge of everything, `Host.Core.run Sys2Proof.core n` `n` clock edges. -/

open Sys2Proof Sys2Proof.Machine

/-! ## The command word (30_encoding.md) -/

/-- Decoding an encoded instruction gives it back, every operand at every value (30_encoding.md R86 to R88, R91, R92),
and the same through the opcode table's numbering of its bits. -/
def Obligations.DecodeOfEncodeIsTheInstruction : Prop :=
  ∀ i : Instr, decode (encode i) = .instr i ∧ decodeTableWord 32 (encode i).toNat = some i

/-- 30_encoding.md R91: the decoder on every word, by the word's own bits; the buffer is the one whose number stands in
bits [5:4] (R87). -/
def Obligations.DecodeIsTotalByOpcode : Prop :=
  ∀ (w : Word) (b : BufId), b.code = w.extractLsb' 4 2 →
    (w.extractLsb' 0 4 = 0x1 → decode w = .instr .start) ∧
    (w.extractLsb' 0 4 = 0x2 → decode w = .instr .read) ∧
    (w.extractLsb' 0 4 = 0x3 → decode w = .instr (.init b)) ∧
    (w.extractLsb' 0 4 = 0x4 → decode w = .instr (.push b (w.extractLsb' 16 8))) ∧
    (w.extractLsb' 0 4 = 0x5 → decode w = .instr (.atIndex b (w.extractLsb' 16 16))) ∧
    (w.extractLsb' 0 4 = 0x6 → decode w = .instr (.avg b)) ∧
    (w.extractLsb' 0 4 = 0x7 → decode w = .instr (.save b (w.extractLsb' 16 16))) ∧
    (w.extractLsb' 0 4 = 0x8 → decode w = .instr (.load b (w.extractLsb' 16 16))) ∧
    (w.extractLsb' 0 4 = 0x0 ∨ 0x9 ≤ (w.extractLsb' 0 4).toNat → decode w = .illegal (w.extractLsb' 0 4))

/-- 30_encoding.md R89: two words that differ only in ignored bits are the same command. -/
def Obligations.IgnoredBitsDoNotChangeTheCommand : Prop :=
  ∀ w v : Word, w.extractLsb' 0 4 = v.extractLsb' 0 4 →
    (w.extractLsb' 4 2 = v.extractLsb' 4 2 → w.extractLsb' 16 16 = v.extractLsb' 16 16 → decode w = decode v) ∧
    (w.extractLsb' 0 4 = 0x4 → w.extractLsb' 4 2 = v.extractLsb' 4 2 → w.extractLsb' 16 8 = v.extractLsb' 16 8 →
      decode w = decode v) ∧
    ((w.extractLsb' 0 4 = 0x3 ∨ w.extractLsb' 0 4 = 0x6) → w.extractLsb' 4 2 = v.extractLsb' 4 2 →
      decode w = decode v) ∧
    ((w.extractLsb' 0 4 = 0x1 ∨ w.extractLsb' 0 4 = 0x2) → decode w = decode v)

/-- 30_encoding.md R95: the twelve example words. -/
def Obligations.ExampleWordsDecode : Prop :=
  decode 0x00000001 = .instr .start ∧
  decode 0x00000002 = .instr .read ∧
  decode 0x00000013 = .instr (.init .hl) ∧
  decode 0x00320004 = .instr (.push .hs 0x32) ∧
  decode 0x00320014 = .instr (.push .hl 0x32) ∧
  decode 0x00180024 = .instr (.push .ts 0x18) ∧
  decode 0x00180034 = .instr (.push .tl 0x18) ∧
  decode 0x00090005 = .instr (.atIndex .hs 9) ∧
  decode 0x00000036 = .instr (.avg .tl) ∧
  decode 0x01000007 = .instr (.save .hs 0x0100) ∧
  decode 0x00100038 = .instr (.load .tl 0x0010) ∧
  decode 0x00000009 = .illegal 9

/-- 30_encoding.md R92: the word of each assembler line, and the assembler's error on an operand out of range. -/
def Obligations.AssemblerWordOrError : Prop :=
  ∀ b x i w : Nat,
    AsmLine.start.assemble = some 0x00000001 ∧
    AsmLine.read.assemble = some 0x00000002 ∧
    (AsmLine.init b).assemble = (if b < 4 then some (BitVec.ofNat 32 (3 + 16 * b)) else none) ∧
    (AsmLine.push b x).assemble =
      (if b < 4 ∧ x < 256 then some (BitVec.ofNat 32 (4 + 16 * b + 65536 * x)) else none) ∧
    (AsmLine.atIndex b i).assemble =
      (if b < 4 ∧ i < 65536 then some (BitVec.ofNat 32 (5 + 16 * b + 65536 * i)) else none) ∧
    (AsmLine.avg b).assemble = (if b < 4 then some (BitVec.ofNat 32 (6 + 16 * b)) else none) ∧
    (AsmLine.save b i).assemble =
      (if b < 4 ∧ i < 65536 then some (BitVec.ofNat 32 (7 + 16 * b + 65536 * i)) else none) ∧
    (AsmLine.load b i).assemble =
      (if b < 4 ∧ i < 65536 then some (BitVec.ofNat 32 (8 + 16 * b + 65536 * i)) else none) ∧
    (AsmLine.word w).assemble = (if w < 2 ^ 32 then some (BitVec.ofNat 32 w) else none)

/-! ## One clock edge: the bus and the engine (40_command_engine.md) -/

/-- A step runs the decoded command: in a cycle with a move and without reset, `step` is the host's access, then one
engine step of the command in progress before the edge (its `exec`, where its word decodes to one), then the end of the
edge (40_command_engine.md R102, R104, R108, 30_encoding.md R91). -/
def Obligations.StepRunsTheCommandInProgress : Prop :=
  ∀ s : State, s.noMove = none → s.resetNow = false →
    (s.regs.busy = false → step s = .next (s.closeEdge s.hostEdge)) ∧
    (∀ i, s.regs.busy = true → decode s.eng.cmd = .instr i →
      step s = onNext s.closeEdge (exec i s.hostEdge)) ∧
    (∀ op, s.regs.busy = true → decode s.eng.cmd = .illegal op →
      step s = .next (s.closeEdge s.hostEdge.execIllegal))

/-- 40_command_engine.md R102: a CMD write with BUSY = 0 is accepted, ERR, DONE and RESULT keep their values, a READ
copies the budget (41_decoder.md R123), and the registers no rule writes at acceptance stay (10_state.md R23, R31 to R33,
R35). R102 has the command's first step at the next edge or later: that it is the next edge without reset is the rule for
START and READ (70_reset_and_hazards.md R238, 41_decoder.md R120) and the model's choice for the others (log entry 7,
DESIGN CHOICE). DSTATE: `ReadShowsReleaseByTickZero`. -/
def Obligations.CommandWriteIsAccepted : Prop :=
  ∀ (s : State) (w : Word), s.noMove = none → s.writesNow 3 = some w → s.resetNow = false → s.regs.busy = false →
    ∃ t, step s = .next t ∧
      t.eng.cmd = w ∧ t.regs.busy = true ∧ t.regs.lastOp = w.extractLsb' 0 4 ∧ t.eng.started = false ∧
      t.regs.err = s.regs.err ∧ t.regs.done = s.regs.done ∧ t.regs.result = s.regs.result ∧
      (decode w = .instr .read → t.dec.budget = s.regs.budget) ∧
      t.bufs = s.bufs ∧ t.pin = s.pin ∧ t.port = s.port ∧ t.storage = s.storage ∧ t.regs.drop = s.regs.drop ∧
      t.regs.ie = s.regs.ie ∧ t.regs.budget = s.regs.budget ∧ t.regs.reading = s.regs.reading ∧
      t.regs.frame = s.regs.frame ∧ t.regs.nbits = s.regs.nbits ∧
      (∀ i, decode w = .instr i → t.noMove = none → t.resetNow = false →
        step t = onNext t.closeEdge (exec i t.hostEdge))

/-- 40_command_engine.md R103: a CMD write with BUSY = 1 before the edge, the edge of a completion included, is
ignored: the edge is as if the host had made no access, but DROP is 1 after it. -/
def Obligations.CommandWriteWhileBusyIsDropped : Prop :=
  ∀ (s : State) (addr : BitVec 7) (w : Word) (ops : List HostOp),
    s.env.host = .bus (.write addr w) :: ops → addr.extractLsb' 2 5 = 3 → s.regs.busy = true →
      ∀ t, step { s with env := { s.env with host := .delay 1 :: ops } } = .next t →
        step s = .next { t with regs := { t.regs with drop := true } }

/-- 40_command_engine.md R101: a read changes no state, and `bus_rdata` carries the register as it stands before the
edge: the edge is as if the host had made no access. -/
def Obligations.ReadAccessHasNoSideEffect : Prop :=
  ∀ (s : State) (addr : BitVec 7) (ops : List HostOp), s.env.host = .bus (.read addr) :: ops →
    ∀ t, step { s with env := { s.env with host := .delay 1 :: ops } } = .next t →
      step s = .next { t with regs := { t.regs with busRdata := some (s.readReg addr) } }

/-- 40_command_engine.md R109: DONE and DROP after an edge; a setting event wins over a clearing write. -/
def Obligations.SettingWinsOverClearing : Prop :=
  ∀ s t : State, step s = .next t → s.resetNow = false →
    (t.regs.done = true ↔ (s.regs.busy = true ∧ t.regs.busy = false) ∨
      (s.regs.done = true ∧ s.clearsNow 1 = false)) ∧
    (t.regs.drop = true ↔ (s.regs.busy = true ∧ (s.writesNow 3).isSome = true) ∨
      (s.regs.drop = true ∧ s.clearsNow 2 = false))

/-- 40_command_engine.md R110: a POLL_BUDGET write stores `d[15:0]`, or 1 for 0, at any time; a READ in progress keeps
the budget it copied. -/
def Obligations.PollBudgetWriteStoresLegalValue : Prop :=
  ∀ (s t : State) (d : Word), step s = .next t → s.resetNow = false → s.writesNow 4 = some d →
    t.regs.budget = (if d.extractLsb' 0 16 = 0 then 1 else d.extractLsb' 0 16) ∧ t.regs.budget ≠ 0 ∧
    t.dec.budget = s.dec.budget

/-- 40_command_engine.md R111 and 60_exceptions.md R203: a CTRL write stores IE at any time, `irq` follows at once, and
`irq` is DONE and IE after every edge. -/
def Obligations.InterruptFollowsDoneAndEnable : Prop :=
  ∀ s t : State, step s = .next t →
    (t.irq = true ↔ t.regs.done = true ∧ t.regs.ie = true) ∧
    (∀ d, s.resetNow = false → s.writesNow 1 = some d →
      t.regs.ie = d.getLsbD 0 ∧ (t.irq = true ↔ t.regs.done = true ∧ d.getLsbD 0 = true)) ∧
    (s.resetNow = false → s.writesNow 1 = none → t.regs.ie = s.regs.ie)

/-- 10_state.md R24: the fields of STATUS, and its reserved bits, which read 0; the numbers of the error codes (R28,
60_exceptions.md R195) and of the decoder states (R29), of which 8 to 15 never appear. -/
def Obligations.StatusRegisterLayout : Prop :=
  ∀ (s : State) (addr : BitVec 7), addr.extractLsb' 2 5 = 2 →
    (s.readReg addr).getLsbD 0 = s.regs.busy ∧ (s.readReg addr).getLsbD 1 = s.regs.done ∧
    (s.readReg addr).getLsbD 2 = s.regs.drop ∧ (s.readReg addr).getLsbD 3 = false ∧
    (s.readReg addr).extractLsb' 4 4 = (match s.regs.err with
      | .ok => 0
      | .noAckLow => 1
      | .noAckHigh => 2
      | .bitTimeout => 3
      | .checksum => 4
      | .indexRange => 5
      | .storageBounds => 6
      | .illegalOp => 7) ∧
    (s.readReg addr).extractLsb' 8 4 = (match s.regs.dstate with
      | .idle => 0
      | .started => 1
      | .release => 2
      | .ackLowSeen => 3
      | .ackHighSeen => 4
      | .rxBits => 5
      | .done => 6
      | .failed => 7) ∧
    ((s.readReg addr).extractLsb' 4 4).toNat < 8 ∧ ((s.readReg addr).extractLsb' 8 4).toNat < 8 ∧
    (s.readReg addr).extractLsb' 12 4 = s.regs.lastOp ∧ (s.readReg addr).extractLsb' 16 16 = 0

/-- 10_state.md R31 to R35: the fields of POLL_BUDGET, RESULT, READING, FRAME0 and FRAME1. -/
def Obligations.ResultAndFrameRegisterLayout : Prop :=
  ∀ (s : State) (addr : BitVec 7),
    (addr.extractLsb' 2 5 = 4 →
      (s.readReg addr).extractLsb' 0 16 = s.regs.budget ∧ (s.readReg addr).extractLsb' 16 16 = 0) ∧
    (addr.extractLsb' 2 5 = 5 →
      (s.readReg addr).extractLsb' 0 17 = s.regs.result.value ∧ (s.readReg addr).extractLsb' 17 14 = 0 ∧
      (s.readReg addr).getLsbD 31 = s.regs.result.valid) ∧
    (addr.extractLsb' 2 5 = 6 →
      (s.readReg addr).extractLsb' 0 8 = s.regs.reading.hum ∧
      (s.readReg addr).extractLsb' 8 8 = s.regs.reading.temp ∧ (s.readReg addr).extractLsb' 16 15 = 0 ∧
      (s.readReg addr).getLsbD 31 = s.regs.reading.valid) ∧
    (addr.extractLsb' 2 5 = 7 →
      (s.readReg addr).extractLsb' 0 8 = s.regs.frame.humInt ∧
      (s.readReg addr).extractLsb' 8 8 = s.regs.frame.humFrac ∧
      (s.readReg addr).extractLsb' 16 8 = s.regs.frame.tempInt ∧
      (s.readReg addr).extractLsb' 24 8 = s.regs.frame.tempFrac) ∧
    (addr.extractLsb' 2 5 = 8 →
      (s.readReg addr).extractLsb' 0 8 = s.regs.frame.check ∧
      (s.readReg addr).extractLsb' 8 6 = s.regs.nbits ∧ (s.readReg addr).extractLsb' 14 18 = 0)

/-- 10_state.md R22, R23, R30, R36 to R39: ID, CTRL, CMD, the capacities, the buffer registers at `0x30 + 8*b` and
`0x34 + 8*b`, and the unmapped addresses, which read 0. -/
def Obligations.IdentityAndBufferRegisters : Prop :=
  ∀ (s : State) (b : BufId), s.params.WellFormed →
    s.readReg 0x00 = 0x57540001 ∧
    (s.readReg 0x04).getLsbD 0 = s.regs.ie ∧ (s.readReg 0x04).extractLsb' 1 31 = 0 ∧
    s.readReg 0x0C = 0 ∧
    ((s.readReg 0x24).extractLsb' 0 16).toNat = s.params.cap0 ∧
    ((s.readReg 0x24).extractLsb' 16 16).toNat = s.params.cap1 ∧
    ((s.readReg 0x28).extractLsb' 0 16).toNat = s.params.cap2 ∧
    ((s.readReg 0x28).extractLsb' 16 16).toNat = s.params.cap3 ∧
    (s.readReg (BitVec.ofNat 7 (0x30 + 8 * b.code.toNat))).extractLsb' 0 16 = (s.buf b).count ∧
    (s.readReg (BitVec.ofNat 7 (0x30 + 8 * b.code.toNat))).extractLsb' 16 16 = (s.buf b).start ∧
    s.readReg (BitVec.ofNat 7 (0x34 + 8 * b.code.toNat)) = (s.buf b).sum ∧
    (∀ addr : BitVec 7, addr.extractLsb' 2 5 = 11 ∨ 20 ≤ (addr.extractLsb' 2 5).toNat → s.readReg addr = 0)

/-- 10_state.md R39, 40_command_engine.md R100, R105, R109 to R111: a write to a read-only register or to an unmapped
address has no effect: the edge is as if the host had made no access. A write to CTRL, STATUS or POLL_BUDGET, whatever is
in progress, makes the edge differ from that one in IE, in DONE and DROP, or in BUDGET alone. -/
def Obligations.WriteToReadOnlyIsIgnored : Prop :=
  ∀ (s : State) (addr : BitVec 7) (d : Word) (ops : List HostOp), s.env.host = .bus (.write addr d) :: ops →
    ((addr.extractLsb' 2 5 = 0 ∨ 5 ≤ (addr.extractLsb' 2 5).toNat) →
      step s = step { s with env := { s.env with host := .delay 1 :: ops } }) ∧
    ∀ t, step { s with env := { s.env with host := .delay 1 :: ops } } = .next t →
      (addr.extractLsb' 2 5 = 1 → step s = .next { t with regs := { t.regs with ie := d.getLsbD 0 } }) ∧
      (addr.extractLsb' 2 5 = 2 → step s = .next { t with regs := { t.regs with
        done := (s.regs.busy && !t.regs.busy) || (s.regs.done && !d.getLsbD 1),
        drop := s.regs.drop && !d.getLsbD 2 } }) ∧
      (addr.extractLsb' 2 5 = 4 → step s = .next { t with regs := { t.regs with
        budget := if d.extractLsb' 0 16 = 0 then 1 else d.extractLsb' 0 16 } })

/-- 40_command_engine.md R113: an illegal word completes at once with ILLEGAL_OP and RESULT 0, and changes no buffer,
frame, reading, pin or storage byte; LAST_OP, written at acceptance, and DSTATE stay. -/
def Obligations.IllegalCommandCompletes : Prop :=
  ∀ s : State, s.noMove = none → s.resetNow = false → s.regs.busy = true →
    (s.eng.cmd.extractLsb' 0 4 = 0x0 ∨ 0x9 ≤ (s.eng.cmd.extractLsb' 0 4).toNat) →
    ∃ t, step s = .next t ∧ t.completedWith .illegalOp Result.none ∧ t.regs.lastOp = s.regs.lastOp ∧
      t.bufs = s.bufs ∧ t.pin = s.pin ∧ t.port = s.port ∧ t.regs.dstate = s.regs.dstate ∧
      t.regs.frame = s.regs.frame ∧ t.regs.nbits = s.regs.nbits ∧ t.regs.reading = s.regs.reading ∧
      ((∀ a, s.env.host.head? ≠ some (.medium a)) → s.KeepsStorage t)

/-- 40_command_engine.md R104, R105: what the host may change while a command is in progress (CTRL.IE, DONE, DROP,
POLL_BUDGET, the read data) makes no difference to the command's step. -/
def Obligations.HostRegistersDoNotReachTheCommand : Prop :=
  ∀ (i : Instr) (s t : State) (ie dn dp : Bool) (bg : Half) (rd : Option Word), exec i s = .next t →
    ∃ u, exec i { s with regs := { s.regs with ie := ie, done := dn, drop := dp, budget := bg, busRdata := rd } } =
        .next u ∧
      u.bufs = t.bufs ∧ u.pin = t.pin ∧ u.dec = t.dec ∧ u.eng = t.eng ∧ u.port = t.port ∧ u.storage = t.storage ∧
      u.regs.busy = t.regs.busy ∧ u.regs.err = t.regs.err ∧ u.regs.result = t.regs.result ∧
      u.regs.dstate = t.regs.dstate ∧ u.regs.reading = t.regs.reading ∧ u.regs.frame = t.regs.frame ∧
      u.regs.nbits = t.regs.nbits ∧ u.regs.ie = ie ∧ u.regs.drop = dp ∧ u.regs.budget = bg

/-- Between commands the block is idle (60_exceptions.md R213; the writers of each register: 10_state.md R24, R26 to R29,
R31 to R35, R40, R43): an edge without reset, without a command in progress and without a CMD write changes no buffer, no
pin, no result, no frame, no storage byte but one another agent writes, IE, DONE, DROP and BUDGET only where the host
writes CTRL, STATUS, POLL_BUDGET; and `st_req` stays (10_state.md R45, 20_memory.md R65). The model's choices in it: that
`st_we`, `st_addr` and `st_wdata` stay while `st_req = 0` (log entry 22, DESIGN CHOICE), and that the engine's hidden
registers stay (log entry 23, DESIGN CHOICE). The synchroniser and `bus_rdata` may change and are not in it. -/
def Obligations.IdleBlockStaysAsItIs : Prop :=
  ∀ s t : State, step s = .next t → s.resetNow = false → s.regs.busy = false → s.writesNow 3 = none →
    t.bufs = s.bufs ∧ t.pin = s.pin ∧ t.port = s.port ∧ t.eng = s.eng ∧ t.regs.busy = false ∧
    t.regs.err = s.regs.err ∧ t.regs.result = s.regs.result ∧ t.regs.lastOp = s.regs.lastOp ∧
    t.regs.dstate = s.regs.dstate ∧ t.regs.reading = s.regs.reading ∧ t.regs.frame = s.regs.frame ∧
    t.regs.nbits = s.regs.nbits ∧
    (s.writesNow 1 = none → t.regs.ie = s.regs.ie) ∧
    (s.writesNow 2 = none → t.regs.done = s.regs.done ∧ t.regs.drop = s.regs.drop) ∧
    (s.writesNow 4 = none → t.regs.budget = s.regs.budget) ∧
    ∀ a, s.env.host.head? ≠ some (.medium (BitVec.ofNat 16 a)) ∨ 65536 ≤ a →
      Memory.read t.storage a = Memory.read s.storage a

/-! ## Reset (10_state.md R48, 70_reset_and_hazards.md) -/

/-- 10_state.md R48: the values after reset, of every elaboration. -/
def Obligations.ResetValues : Prop :=
  ∀ (p : Params) (b : BufId),
    (State.resetWith p).readReg 0x00 = 0x57540001 ∧ (State.resetWith p).readReg 0x04 = 0 ∧
    (State.resetWith p).readReg 0x08 = 0 ∧ (State.resetWith p).readReg 0x10 = BitVec.ofNat 32 (p.budgetReset % 65536) ∧
    (State.resetWith p).readReg 0x14 = 0 ∧ (State.resetWith p).readReg 0x18 = 0 ∧
    (State.resetWith p).readReg 0x1C = 0 ∧ (State.resetWith p).readReg 0x20 = 0 ∧
    (State.resetWith p).readReg 0x24 = BitVec.ofNat 32 (p.cap1 % 65536 * 65536 + p.cap0 % 65536) ∧
    (State.resetWith p).readReg 0x28 = BitVec.ofNat 32 (p.cap3 % 65536 * 65536 + p.cap2 % 65536) ∧
    ((State.resetWith p).buf b).start = 0 ∧ ((State.resetWith p).buf b).count = 0 ∧
    ((State.resetWith p).buf b).sum = 0 ∧
    (State.resetWith p).pin = { oe := true, out := true } ∧ (State.resetWith p).irq = false ∧
    (State.resetWith p).port.req = false ∧
    State.reset = State.resetWith Params.reference ∧ State.reset.readReg 0x10 = 0xC8 ∧
    State.reset.readReg 0x24 = 0x012C000A ∧ State.reset.readReg 0x28 = 0x012C000A

/-- 70_reset_and_hazards.md R220 to R223: a reset edge gives the reset state whatever the block was doing, ignores a bus
write and answers a read with the reset value; storage bytes stay, but the byte of an outstanding access is a draw
afterwards (unlisted). The model's choices in it: that byte for an outstanding read too, and for an access acknowledged
in the reset cycle (log entry 11, DEDUCED); `bus_rdata` none in a cycle without a read (log entry 10, DESIGN CHOICE); the
engine's started bit 0 (log entry 5, DESIGN CHOICE). -/
def Obligations.ResetEdgeEndsEverything : Prop :=
  ∀ (s : State) (a : Option Access) (ops : List HostOp), s.params.WellFormed → s.env.host = .reset a :: ops →
    ∃ t, step s = .next t ∧
      t.params = s.params ∧ t.bufs = (State.resetWith s.params).bufs ∧ t.pin = { oe := true, out := true } ∧
      t.port.req = false ∧ t.eng.started = false ∧ t.env.host = ops ∧
      t.regs = { (State.resetWith s.params).regs with busRdata := (match a with
        | some (.read addr) => some ((State.resetWith s.params).readReg addr)
        | _ => none) } ∧
      ∀ j, Memory.read t.storage j =
        if s.port.req = true ∧ j = s.port.addr.toNat then none else Memory.read s.storage j

/-! ## The protocol decoder (41_decoder.md) -/

/-- 41_decoder.md R122: START drives the bus low and completes OK with DSTATE STARTED; it changes no frame, reading,
buffer or storage byte; and the rule's example. -/
def Obligations.StartDrivesTheBusLow : Prop :=
  (∀ s : State, ∃ t, exec .start s = .next t ∧ t.pin = { oe := true, out := false } ∧ t.regs.dstate = .started ∧
    t.completedWith .ok Result.none ∧ s.KeepsHostRegs t ∧ t.regs.frame = s.regs.frame ∧
    t.regs.nbits = s.regs.nbits ∧ t.regs.reading = s.regs.reading ∧ t.dec = s.dec ∧ t.port = s.port ∧
    (∀ b, s.KeepsDescriptor t b) ∧ s.KeepsSamples t ∧ s.KeepsStorage t) ∧
  (∀ p : Params, p.WellFormed → ∃ t, step ((State.resetWith p).withFetchWord 32 0x00000001) = .next t ∧
    t.readReg 0x08 = 0x00001102 ∧ t.pin = { oe := true, out := false })

/-- 41_decoder.md R123 tick 0, R124, R132: the first step of READ clears the frame and NBITS, drives the bus high, sets
DSTATE RELEASE and starts the time base; it is not yet complete. -/
def Obligations.ReadBeginsAtTickZero : Prop :=
  ∀ s : State, s.eng.started = false → ∃ t, exec .read s = .next t ∧
    t.regs.frame = Frame.zero ∧ t.regs.nbits = 0 ∧ t.pin = { oe := true, out := true } ∧
    t.regs.dstate = .release ∧ t.dec.now = 0 ∧ t.dec.presc = 0 ∧ t.dec.budget = s.dec.budget ∧
    t.regs.busy = s.regs.busy ∧ t.regs.err = s.regs.err ∧ t.regs.result = s.regs.result ∧
    t.regs.reading = s.regs.reading ∧ t.regs.done = s.regs.done

/-- 41_decoder.md R120: between two ticks only the prescaler counts; a tick comes after `CYC_PER_US` edges, and `now`
counts it. -/
def Obligations.TimeBaseCountsTicks : Prop :=
  ∀ s : State, s.eng.started = true → (∀ e, s.dec.phase ≠ .finish e) →
    (s.dec.presc + 1 < s.params.cycPerUs →
      exec .read s = .next { s with dec := { s.dec with presc := s.dec.presc + 1 } }) ∧
    (s.params.cycPerUs ≤ s.dec.presc + 1 →
      ∃ t, exec .read s = .next t ∧ t.dec.now = s.dec.now + 1 ∧ t.dec.presc = 0)

/-- 41_decoder.md R124 to R127 and R137: the handshake at its ticks P1, P2, P3, P4: the pin becomes an input; the ack-low
sample must read 0, the ack-high sample 1; then the bits begin; at every earlier tick of a phase nothing changes and no
sample counts. -/
def Obligations.HandshakeAtItsTicks : Prop :=
  ∀ s : State,
    (s.atTick s.params.p1 → s.dec.phase = .release → ∃ t, exec .read s = .next t ∧
      t.pin = { oe := false, out := s.pin.out } ∧ t.dec.phase = .input ∧ t.regs = s.regs) ∧
    (s.atTick s.params.p2 → s.dec.phase = .input → s.sample = true → ∃ t, exec .read s = .next t ∧
      t.dec.phase = .finish .noAckLow ∧ t.regs = s.regs ∧ t.pin = s.pin) ∧
    (s.atTick s.params.p2 → s.dec.phase = .input → s.sample = false → ∃ t, exec .read s = .next t ∧
      t.dec.phase = .ackLow ∧ t.regs = { s.regs with dstate := .ackLowSeen } ∧ t.pin = s.pin) ∧
    (s.atTick s.params.p3 → s.dec.phase = .ackLow → s.sample = false → ∃ t, exec .read s = .next t ∧
      t.dec.phase = .finish .noAckHigh ∧ t.regs = s.regs ∧ t.pin = s.pin) ∧
    (s.atTick s.params.p3 → s.dec.phase = .ackLow → s.sample = true → ∃ t, exec .read s = .next t ∧
      t.dec.phase = .ackHigh ∧ t.regs = { s.regs with dstate := .ackHighSeen } ∧ t.pin = s.pin) ∧
    (s.atTick s.params.p4 → s.dec.phase = .ackHigh → s.sample = true → ∃ t, exec .read s = .next t ∧
      t.dec.phase = .settle (s.params.p4 + s.params.tSettle) ∧ t.regs = { s.regs with dstate := .rxBits }) ∧
    (s.atTick s.params.p4 → s.dec.phase = .ackHigh → s.sample = false → ∃ t, exec .read s = .next t ∧
      t.dec.phase = (if s.dec.budget = 1 then .finish .bitTimeout else .low) ∧ t.dec.polls = 1 ∧
      t.regs = { s.regs with dstate := .rxBits }) ∧
    (∀ n, s.atTick n →
      (s.dec.phase = .release ∧ n < s.params.p1) ∨ (s.dec.phase = .input ∧ n < s.params.p2) ∨
        (s.dec.phase = .ackLow ∧ n < s.params.p3) ∨ (s.dec.phase = .ackHigh ∧ n < s.params.p4) →
      ∃ t, exec .read s = .next t ∧ t.dec.phase = s.dec.phase ∧ t.pin = s.pin ∧ t.regs = s.regs)

/-- 41_decoder.md R128 to R131: one poll of a low phase, the bit sample, one poll of a high phase, in every bit; where
a phase ends bit 39, `ChecksumDecidesAfterBit39` says what follows. -/
def Obligations.BitPhasesPollByPoll : Prop :=
  ∀ (s : State) (n : Nat), s.atTick n →
    (s.dec.phase = .low → s.sample = true → ∃ t, exec .read s = .next t ∧
      t.dec.phase = .settle (n + s.params.tSettle) ∧ t.dec.bit = s.dec.bit ∧ t.regs = s.regs) ∧
    (s.dec.phase = .low → s.sample = false → ∃ t, exec .read s = .next t ∧
      t.dec.phase = (if s.dec.polls + 1 = s.dec.budget.toNat then .finish .bitTimeout else .low) ∧
      t.dec.polls = s.dec.polls + 1 ∧ t.dec.bit = s.dec.bit ∧ t.regs = s.regs) ∧
    (s.dec.phase = .settle n → s.sample = true ∨ s.dec.bit < 39 → ∃ t, exec .read s = .next t ∧
      t.regs = { s.regs with frame := s.regs.frame.setBit s.dec.bit s.sample,
                             nbits := BitVec.ofNat 6 (s.dec.bit + 1) } ∧
      t.dec.polls = 1 ∧ t.dec.bit = (if s.sample then s.dec.bit else s.dec.bit + 1) ∧
      t.dec.phase = (if s.dec.budget = 1 then .finish .bitTimeout else if s.sample then .high else .low)) ∧
    (∀ m, s.dec.phase = .settle m → n < m → ∃ t, exec .read s = .next t ∧
      t.dec.phase = .settle m ∧ t.regs = s.regs) ∧
    (s.dec.phase = .high → s.sample = true → ∃ t, exec .read s = .next t ∧
      t.dec.phase = (if s.dec.polls + 1 = s.dec.budget.toNat then .finish .bitTimeout else .high) ∧
      t.dec.polls = s.dec.polls + 1 ∧ t.dec.bit = s.dec.bit ∧ t.regs = s.regs) ∧
    (s.dec.phase = .high → s.sample = false → s.dec.bit < 39 → ∃ t, exec .read s = .next t ∧
      t.dec.bit = s.dec.bit + 1 ∧ t.dec.polls = 1 ∧ t.regs = s.regs ∧
      t.dec.phase = (if s.dec.budget = 1 then .finish .bitTimeout else .low))

/-- 41_decoder.md R131, R134: when bit 39's high phase ends (at its sample, for a 0), the checksum of the five bytes
decides. -/
def Obligations.ChecksumDecidesAfterBit39 : Prop :=
  ∀ (s : State) (n : Nat) (f : Frame), s.atTick n → s.dec.bit = 39 → s.sample = false →
    (s.dec.phase = .high ∧ f = s.regs.frame) ∨ (s.dec.phase = .settle n ∧ f = s.regs.frame.setBit 39 false) →
    ∃ t, exec .read s = .next t ∧ t.regs.frame = f ∧ t.regs.dstate = s.regs.dstate ∧
      t.dec.phase =
        (if (f.humInt.toNat + f.humFrac.toNat + f.tempInt.toNat + f.tempFrac.toNat) % 256 = f.check.toNat
          then .finish .ok else .finish .checksum)

/-- 41_decoder.md R133, R135, R136: `finish`, READ's completion: the bus driven high whatever the outcome; a good READ
gives the reading, any other a zero reading and the error code; the frame, NBITS, the buffers and the storage bytes are
as before. -/
def Obligations.ReadFinishes : Prop :=
  ∀ (s : State) (e : Err), s.eng.started = true → s.dec.phase = .finish e → ∃ t, exec .read s = .next t ∧
    t.pin = { oe := true, out := true } ∧
    t.completedWith e (if e = .ok then
      { valid := true, value := BitVec.ofNat 17 (s.regs.frame.tempInt.toNat * 256 + s.regs.frame.humInt.toNat) }
      else Result.none) ∧
    t.regs.reading = (if e = .ok then
      { valid := true, temp := s.regs.frame.tempInt, hum := s.regs.frame.humInt } else Reading.zero) ∧
    t.regs.dstate = (if e = .ok then .done else .failed) ∧
    (e = .ok → t.readReg 0x14 =
      0x80000000#32 ||| (s.regs.frame.tempInt.setWidth 32 <<< 8) ||| s.regs.frame.humInt.setWidth 32) ∧
    t.regs.frame = s.regs.frame ∧ t.regs.nbits = s.regs.nbits ∧ s.KeepsHostRegs t ∧ t.port = s.port ∧
    (∀ b, s.KeepsDescriptor t b) ∧ s.KeepsSamples t ∧ s.KeepsStorage t

/-- 41_decoder.md R123: the clocked READ does what the pseudocode does. From its acceptance, with an idle host, whatever
the pin: it completes one clock edge after the tick the pseudocode decides at, with the pseudocode's outcome, frame and
NBITS; nothing else of the block changes. (A host that makes accesses meanwhile: `HostRegistersDoNotReachTheCommand`.) -/
def Obligations.ReadAgreesWithThePseudocode : Prop :=
  ∀ s : State, s.params.WellFormed → s.justAccepted .read → s.dec.budget ≠ 0 →
    s.dec.sync.length = s.params.syncStages →
    ∀ r, r = readOutcome s.params s.dec.budget.toNat (fun t => s.sampleAt (t * s.params.cycPerUs)) →
    ∃ t, Host.Core.run Sys2Proof.core (r.tick * s.params.cycPerUs + 2) s = .next t ∧
      t.completedWith r.err (if r.err = .ok then Result.ofFrame r.frame else Result.none) ∧
      t.regs.frame = r.frame ∧ t.regs.nbits.toNat = r.nbits ∧
      t.regs.reading = (if r.err = .ok then Reading.ofFrame r.frame else Reading.zero) ∧
      t.regs.dstate = (if r.err = .ok then .done else .failed) ∧ t.pin = { oe := true, out := true } ∧
      t.bufs = s.bufs ∧ t.storage = s.storage ∧ t.port = s.port ∧ t.regs.lastOp = s.regs.lastOp ∧
      t.regs.ie = s.regs.ie ∧ t.regs.drop = s.regs.drop ∧ t.regs.budget = s.regs.budget

/-- 41_decoder.md R141: the deciding tick is bounded, P2 exactly for NO_ACK_LOW and P3 exactly for NO_ACK_HIGH; 17,360
ticks with the defaults. -/
def Obligations.ReadDurationIsBounded : Prop :=
  (∀ (p : Params) (budget : Nat) (smp : Nat → Bool), 1 ≤ budget →
    (readOutcome p budget smp).tick ≤ p.p4 + 40 * (2 * (budget - 1) + p.tSettle) ∧
    ((readOutcome p budget smp).err = .noAckLow → (readOutcome p budget smp).tick = p.p2) ∧
    ((readOutcome p budget smp).err = .noAckHigh → (readOutcome p budget smp).tick = p.p3)) ∧
  (∀ smp, (readOutcome Params.reference 200 smp).tick ≤ 17360)

/-- 41_decoder.md R141: a READ always completes, whatever the pin does: from its acceptance, with an idle host, within
`CYC_PER_US` edges for each tick of the bound, and two more. (A host that makes accesses is left out.) -/
def Obligations.ReadAlwaysCompletes : Prop :=
  ∀ s : State, s.params.WellFormed → s.justAccepted .read → s.dec.budget ≠ 0 →
    s.dec.sync.length = s.params.syncStages →
    ∃ n t, n ≤ (s.params.p4 + 40 * (2 * (s.dec.budget.toNat - 1) + s.params.tSettle)) * s.params.cycPerUs + 2 ∧
      Host.Core.run Sys2Proof.core n s = .next t ∧ t.regs.busy = false ∧ t.regs.done = true

/-- 41_decoder.md R139: with a budget of 1 every READ that passes the handshake ends with BIT_TIMEOUT, in bit 0's low
phase, or at bit 0's sample. -/
def Obligations.BudgetOneAlwaysTimesOut : Prop :=
  ∀ (p : Params) (smp : Nat → Bool), smp p.p2 = false → smp p.p3 = true →
    readOutcome p 1 smp =
      if smp p.p4 then
        { err := .bitTimeout, frame := Frame.zero.setBit 0 (smp (p.p4 + p.tSettle)), nbits := 1,
          tick := p.p4 + p.tSettle }
      else { err := .bitTimeout, frame := Frame.zero, nbits := 0, tick := p.p4 }

/-- 41_decoder.md R132: the frame after the first `n` bits holds them most significant bit first, byte 0 first, and 0 in
every bit not yet taken. -/
def Obligations.FrameHoldsBitsInOrder : Prop :=
  ∀ (v : Nat → Bool) (n i : Nat), n ≤ 40 → i < 40 →
    ((List.range n).foldl (fun f k => f.setBit k (v k)) Frame.zero).bit i = (decide (i < n) && v i)

/-- 41_decoder.md R142: changing any single byte of a frame that passes makes it fail. -/
def Obligations.ChecksumCatchesOneByte : Prop :=
  ∀ (f : Frame) (x : Byte), f.sumOk = true →
    (x ≠ f.humInt → ({ f with humInt := x } : Frame).sumOk = false) ∧
    (x ≠ f.humFrac → ({ f with humFrac := x } : Frame).sumOk = false) ∧
    (x ≠ f.tempInt → ({ f with tempInt := x } : Frame).sumOk = false) ∧
    (x ≠ f.tempFrac → ({ f with tempFrac := x } : Frame).sumOk = false) ∧
    (x ≠ f.check → ({ f with check := x } : Frame).sumOk = false)

/-! ## What each command leaves (frames) -/

/-- The frame of every command (10_state.md R29, R31 to R33, R42, R43, 42_ring_buffer.md): the parameters, the
environment and the host's registers stay; only START and READ touch the pin and the decoder's registers; only SAVE and
LOAD touch the storage port; a buffer changes only if it is the one INIT, PUSH or LOAD names; the capacity never
does. -/
def Obligations.CommandsLeaveTheRest : Prop :=
  ∀ (i : Instr) (s t : State), exec i s = .next t →
    t.params = s.params ∧ t.env = s.env ∧ s.KeepsHostRegs t ∧
    (i ≠ .start → i ≠ .read → s.KeepsDecoder t) ∧
    ((∀ b off, i ≠ .save b off) → (∀ b off, i ≠ .load b off) → t.port = s.port) ∧
    ∀ c, writtenBuffer i ≠ some c → t.buf c = s.buf c

/-- The bytes every command leaves: a storage byte changes only if SAVE's outstanding write to it is acknowledged; a
sample byte only if it is the slot `(start + count) mod capacity` PUSH writes, or the one a LOAD's push writes
(20_memory.md R60, R63). -/
def Obligations.CommandsLeaveOtherBytes : Prop :=
  ∀ (i : Instr) (s t : State), exec i s = .next t →
    (∀ a, ((∃ b off, i = .save b off ∨ i = .load b off) → s.eng.started = true → s.port.req = true →
        s.ackNow = true → s.port.we = true → a ≠ s.port.addr.toNat) →
      Memory.read t.storage a = Memory.read s.storage a) ∧
    (∀ c j, (∀ x, i = .push c x → j ≠ (s.buf c).slot (s.cap c) (s.buf c).count.toNat) →
      (∀ off, i = .load c off → s.eng.started = true → s.port.req = true → s.ackNow = true → 2 ≤ s.eng.idx →
        j ≠ (s.buf c).slot (s.cap c) (s.buf c).count.toNat) →
      Memory.read (t.buf c).sram j = Memory.read (s.buf c).sram j)

/-! ## The sample buffers (42_ring_buffer.md) -/

/-- 42_ring_buffer.md R150: INIT empties its buffer, keeps its sample memory, and completes OK. -/
def Obligations.InitEmptiesItsBuffer : Prop :=
  ∀ (s : State) (b : BufId), ∃ t, exec (.init b) s = .next t ∧ t.completedWith .ok Result.none ∧
    (t.buf b).start = 0 ∧ (t.buf b).count = 0 ∧ (t.buf b).sum = 0 ∧ s.KeepsSamples t ∧
    (∀ c, c ≠ b → s.KeepsDescriptor t c) ∧ s.cap b = t.cap b ∧ s.KeepsHostRegs t ∧ s.KeepsDecoder t ∧
    t.port = s.port ∧ s.KeepsStorage t

/-- 42_ring_buffer.md R151, R152: PUSH never errs; it stores the sample in slot `(start + count) mod C`, counts it or
evicts the oldest, and adds it to the sum: after it the sample is the newest, and a full buffer has lost its oldest. -/
def Obligations.PushAppendsAndEvictsOldest : Prop :=
  ∀ (s : State) (b : BufId) (x : Byte), (s.buf b).Inv (s.cap b) → 1 ≤ s.cap b → s.cap b ≤ 65535 →
    ∃ t, exec (.push b x) s = .next t ∧ t.completedWith .ok Result.none ∧
      Memory.read (t.buf b).sram (((s.buf b).start.toNat + (s.buf b).count.toNat) % s.cap b) = some x ∧
      ((s.buf b).count.toNat < s.cap b →
        (t.buf b).count = (s.buf b).count + 1 ∧ (t.buf b).start = (s.buf b).start ∧
        (t.buf b).sum.toNat = (s.buf b).sum.toNat + x.toNat ∧
        (t.buf b).logical (s.cap b) = (s.buf b).logical (s.cap b) ++ [x]) ∧
      ((s.buf b).count.toNat = s.cap b →
        (t.buf b).count = (s.buf b).count ∧ (t.buf b).start.toNat = ((s.buf b).start.toNat + 1) % s.cap b ∧
        (∃ old, (s.buf b).logical (s.cap b) = old :: ((s.buf b).logical (s.cap b)).tail ∧
          (t.buf b).sum.toNat + old.toNat = (s.buf b).sum.toNat + x.toNat) ∧
        (t.buf b).logical (s.cap b) = ((s.buf b).logical (s.cap b)).tail ++ [x])

/-- 42_ring_buffer.md R153, 60_exceptions.md R200: AT answers the sample at the logical index, or INDEX_RANGE with
RESULT 0 where the index is not below the count; it changes no buffer. -/
def Obligations.AtReadsTheLogicalIndex : Prop :=
  ∀ (s : State) (b : BufId) (i : Half), (s.buf b).Inv (s.cap b) →
    ∃ t, exec (.atIndex b i) s = .next t ∧ t.bufs = s.bufs ∧
      ((s.buf b).count.toNat ≤ i.toNat → t.completedWith .indexRange Result.none) ∧
      (i.toNat < (s.buf b).count.toNat → ∃ v,
        Memory.read (s.buf b).sram (((s.buf b).start.toNat + i.toNat) % s.cap b) = some v ∧
        ((s.buf b).logical (s.cap b))[i.toNat]? = some v ∧
        t.completedWith .ok { valid := true, value := v.setWidth 17 })

/-- 42_ring_buffer.md R154: AVG answers `sum div count`, at most 255, or no value for an empty buffer, which is no error;
it changes no buffer. -/
def Obligations.AvgDividesTheSum : Prop :=
  ∀ (s : State) (b : BufId), (s.buf b).Inv (s.cap b) →
    ∃ t, exec (.avg b) s = .next t ∧ t.bufs = s.bufs ∧
      ((s.buf b).count = 0 → t.completedWith .ok Result.none) ∧
      ((s.buf b).count ≠ 0 →
        t.completedWith .ok
          { valid := true, value := BitVec.ofNat 17 ((s.buf b).sum.toNat / (s.buf b).count.toNat) } ∧
        t.regs.result.value.toNat = total ((s.buf b).logical (s.cap b)) / (s.buf b).count.toNat ∧
        t.regs.result.value.toNat ≤ 255)

/-- 42_ring_buffer.md R156: no field of a buffer overflows. -/
def Obligations.BufferWidthsNeverOverflow : Prop :=
  ∀ (x : Buf) (cap : Nat), x.Inv cap → cap ≤ 65535 →
    x.sum.toNat ≤ 255 * cap ∧ x.sum.toNat < 2 ^ 24 ∧
    (0 < x.count.toNat → (∃ v, Memory.read x.sram x.start.toNat = some v ∧ v.toNat ≤ x.sum.toNat) ∧
      x.sum.toNat / x.count.toNat ≤ 255)

/-- 42_ring_buffer.md R158 (and 43_persistence.md R179): the contents after pushes into an emptied buffer are the last
`min(n, C)` values in order, with their exact total. -/
def Obligations.PushesKeepTheLatest : Prop :=
  ∀ (x : Buf) (cap : Nat) (vs : List Byte), 1 ≤ cap → cap ≤ 65535 →
    (x.clear.pushAll cap vs).count.toNat = min vs.length cap ∧
    (x.clear.pushAll cap vs).start.toNat = (if vs.length ≤ cap then 0 else (vs.length - cap) % cap) ∧
    (x.clear.pushAll cap vs).logical cap = vs.drop (vs.length - cap) ∧
    (x.clear.pushAll cap vs).sum.toNat = total (vs.drop (vs.length - cap))

/-! ## The persistence codec (43_persistence.md) -/

/-- 20_memory.md R65: an outstanding access waits for `st_ack`, without limit, everything held; `st_ack` without a
request is ignored. -/
def Obligations.StorageAccessWaitsForAck : Prop :=
  ∀ (s : State) (b : BufId) (off : Half), s.eng.started = true → s.port.req = false ∨ s.ackNow = false →
    exec (.save b off) s = .next s ∧ exec (.load b off) s = .next s

/-- 43_persistence.md R176, 60_exceptions.md R201: SAVE's bounds test, without wrap-around, before any access: a block
that does not fit writes nothing and completes with STORAGE_BOUNDS; one that fits begins with the length's low byte. -/
def Obligations.SaveTestsBoundsFirst : Prop :=
  ∀ (s : State) (b : BufId) (off : Half), s.eng.started = false →
    (s.params.storeSize < off.toNat + 2 + (s.buf b).count.toNat →
      ∃ t, exec (.save b off) s = .next t ∧ t.completedWith .storageBounds Result.none ∧ s.KeepsStorage t ∧
        t.port = s.port ∧ t.bufs = s.bufs) ∧
    (off.toNat + 2 + (s.buf b).count.toNat ≤ s.params.storeSize →
      ∃ t, exec (.save b off) s = .next t ∧ t.regs = s.regs ∧ s.KeepsStorage t ∧ t.bufs = s.bufs ∧
        t.eng.started = true ∧ t.eng.idx = 0 ∧
        t.port = { req := true, we := true, addr := off, wdata := (s.buf b).count.extractLsb' 0 8 })

/-- 43_persistence.md R175, 20_memory.md R65, R66: an acknowledged write of SAVE stores its byte and no other; then the
next byte is requested, or after the last SAVE completes with `count + 2`. -/
def Obligations.SaveStoresOneByteAnAck : Prop :=
  ∀ (s : State) (b : BufId) (off : Half), s.acknowledged → s.port.we = true →
    ∃ t, exec (.save b off) s = .next t ∧ t.bufs = s.bufs ∧
      Memory.read t.storage s.port.addr.toNat = some s.port.wdata ∧
      (∀ a, a ≠ s.port.addr.toNat → Memory.read t.storage a = Memory.read s.storage a) ∧
      (s.eng.idx + 1 < (s.buf b).count.toNat + 2 →
        t.regs = s.regs ∧ t.eng.idx = s.eng.idx + 1 ∧ t.port.req = true ∧ t.port.we = true ∧
        t.port.addr = BitVec.ofNat 16 (off.toNat + (s.eng.idx + 1)) ∧
        (s.eng.idx + 1 = 1 → t.port.wdata = (s.buf b).count.extractLsb' 8 8) ∧
        (∀ v, 2 ≤ s.eng.idx + 1 → ((s.buf b).cells (s.cap b))[s.eng.idx - 1]? = some (some v) →
          t.port.wdata = v)) ∧
      ((s.buf b).count.toNat + 2 ≤ s.eng.idx + 1 →
        t.port.req = false ∧
        t.completedWith .ok { valid := true, value := BitVec.ofNat 17 ((s.buf b).count.toNat + 2) } ∧
        s.KeepsHostRegs t ∧ s.KeepsDecoder t)

/-- 43_persistence.md R175: a whole SAVE, every access acknowledged at once: the block's bytes are the length, low byte
first, and the samples, oldest first; every other byte stays; it completes with `count + 2`; the buffer stays. That it
takes `count + 3` edges is the model's choice (log entry 7, DESIGN CHOICE: R239 and U18 leave the cycle count open). -/
def Obligations.SaveWritesThePersistedBlock : Prop :=
  ∀ (s : State) (b : BufId) (off : Half), s.Inv → s.justAccepted (.save b off) →
    off.toNat + 2 + (s.buf b).count.toNat ≤ s.params.storeSize →
    (∀ k, k ≤ (s.buf b).count.toNat + 2 → s.ackAt k = true) →
    ∃ t, Host.Core.run Sys2Proof.core ((s.buf b).count.toNat + 3) s = .next t ∧
      t.completedWith .ok { valid := true, value := BitVec.ofNat 17 ((s.buf b).count.toNat + 2) } ∧
      Memory.holds t.storage off.toNat (persistedBlock ((s.buf b).logical (s.cap b))) ∧
      (∀ a, a < off.toNat ∨ off.toNat + 2 + (s.buf b).count.toNat ≤ a →
        Memory.read t.storage a = Memory.read s.storage a) ∧
      t.bufs = s.bufs ∧ t.port.req = false

/-- 43_persistence.md R177, R178: LOAD's first step empties the buffer, keeping its sample memory, and tests the
header's bounds: STORAGE_BOUNDS without any access, or the read of the length's low byte. -/
def Obligations.LoadEmptiesThenTestsBounds : Prop :=
  ∀ (s : State) (b : BufId) (off : Half), s.eng.started = false →
    ∃ t, exec (.load b off) s = .next t ∧ (t.buf b).start = 0 ∧ (t.buf b).count = 0 ∧ (t.buf b).sum = 0 ∧
      s.KeepsSamples t ∧ s.KeepsStorage t ∧
      (s.params.storeSize < off.toNat + 2 → t.completedWith .storageBounds Result.none ∧ t.port = s.port) ∧
      (off.toNat + 2 ≤ s.params.storeSize →
        t.regs = s.regs ∧ t.eng.started = true ∧ t.eng.idx = 0 ∧ t.port.req = true ∧ t.port.we = false ∧
        t.port.addr = off)

/-- 43_persistence.md R177, R178, 20_memory.md R67, R69: an acknowledged read of LOAD, whatever the byte it finds: one the
block wrote, or a draw. The first byte is the length's low
half; the second its high half, and then the block's bounds are tested: STORAGE_BOUNDS with nothing pushed, completion
with 2 for an empty block, or the first sample; every later byte is pushed, and after the last LOAD completes with
`L + 2`. -/
def Obligations.LoadPushesOneByteAnAck : Prop :=
  ∀ (s : State) (b : BufId) (off : Half) (x : Byte), s.acknowledged → s.port.we = false →
    x = s.storageRead s.port.addr.toNat →
    ∃ t, exec (.load b off) s = .next t ∧ s.KeepsStorage t ∧
      (s.eng.idx = 0 → t.regs = s.regs ∧ t.bufs = s.bufs ∧ t.eng.len = x.setWidth 16 ∧ t.eng.idx = 1 ∧
        t.port.req = true ∧ t.port.we = false ∧ t.port.addr = BitVec.ofNat 16 (off.toNat + 1)) ∧
      (s.eng.idx = 1 → t.bufs = s.bufs ∧ t.eng.len = x ++ s.eng.len.extractLsb' 0 8 ∧
        (s.params.storeSize < off.toNat + 2 + t.eng.len.toNat →
          t.completedWith .storageBounds Result.none ∧ t.port.req = false) ∧
        (off.toNat + 2 + t.eng.len.toNat ≤ s.params.storeSize → t.eng.len = 0 →
          t.completedWith .ok { valid := true, value := 2 } ∧ t.port.req = false) ∧
        (off.toNat + 2 + t.eng.len.toNat ≤ s.params.storeSize → t.eng.len ≠ 0 →
          t.regs = s.regs ∧ t.eng.idx = 2 ∧ t.port.req = true ∧ t.port.we = false ∧
          t.port.addr = BitVec.ofNat 16 (off.toNat + 2))) ∧
      (2 ≤ s.eng.idx →
        t.buf b = (s.buf b).push (s.cap b) (s.sramRead b (s.buf b).start.toNat) x ∧
        (s.eng.idx + 1 < s.eng.len.toNat + 2 → t.regs = s.regs ∧ t.eng.idx = s.eng.idx + 1 ∧ t.port.req = true ∧
          t.port.we = false ∧ t.port.addr = BitVec.ofNat 16 (off.toNat + (s.eng.idx + 1))) ∧
        (s.eng.len.toNat + 2 ≤ s.eng.idx + 1 → t.port.req = false ∧
          t.completedWith .ok { valid := true, value := BitVec.ofNat 17 (s.eng.len.toNat + 2) } ∧
          s.KeepsHostRegs t ∧ s.KeepsDecoder t))

/-- 43_persistence.md R177, R179: a whole LOAD, every access acknowledged at once, of the block its reads find: bytes the
block wrote, or draws of the cycles they are read in (20_memory.md R69, 93_implementation_defined.md U3): the buffer
holds the last `min(L, C)` samples of the block in order, from slot 0 on unless the block was longer, with their exact
total; it completes with `L + 2`; the medium and the other buffers stay. That it takes `L + 3` edges, byte `j` being read
at the edge `j + 1` from now, is the model's choice (log entry 7, DESIGN CHOICE: R239 and U18 leave the cycle count
open). -/
def Obligations.LoadRestoresThePersistedBlock : Prop :=
  ∀ (s : State) (b : BufId) (off : Half) (vs : List Byte), s.Inv → s.justAccepted (.load b off) →
    vs.length ≤ 65535 → off.toNat + 2 + vs.length ≤ s.params.storeSize →
    (∀ j (h : j < (persistedBlock vs).length), s.byteAt (j + 1) (off.toNat + j) = (persistedBlock vs)[j]) →
    (∀ k, k ≤ vs.length + 2 → s.ackAt k = true) →
    ∃ t, Host.Core.run Sys2Proof.core (vs.length + 3) s = .next t ∧
      t.completedWith .ok { valid := true, value := BitVec.ofNat 17 (vs.length + 2) } ∧
      (t.buf b).logical (s.cap b) = vs.drop (vs.length - s.cap b) ∧
      (t.buf b).count.toNat = min vs.length (s.cap b) ∧
      (t.buf b).start.toNat = (if vs.length ≤ s.cap b then 0 else (vs.length - s.cap b) % s.cap b) ∧
      (t.buf b).sum.toNat = total (vs.drop (vs.length - s.cap b)) ∧
      (∀ c, c ≠ b → t.buf c = s.buf c) ∧ t.storage = s.storage ∧ t.port.req = false

/-- 43_persistence.md R180: a SAVE of buffer `b` and then a LOAD of a buffer `c` that is large enough, at the same
offset, nothing having written the block in between, gives `c` the same count, sum and logical sequence as `b` had, and
both commands return the same value; `start` is 0 after the LOAD. That each takes `count + 3` edges is the model's choice
(log entry 7, DESIGN CHOICE: R239 and U18 leave the cycle counts open). -/
def Obligations.SaveThenLoadRoundTrip : Prop :=
  ∀ (s t u : State) (b c : BufId) (off : Half), s.Inv → s.justAccepted (.save b off) →
    off.toNat + 2 + (s.buf b).count.toNat ≤ s.params.storeSize →
    (∀ k, k ≤ (s.buf b).count.toNat + 2 → s.ackAt k = true) →
    Host.Core.run Sys2Proof.core ((s.buf b).count.toNat + 3) s = .next t →
    u.Inv → u.justAccepted (.load c off) → u.params = s.params → (s.buf b).count.toNat ≤ s.cap c →
    (∀ a, off.toNat ≤ a → a < off.toNat + 2 + (s.buf b).count.toNat →
      Memory.read u.storage a = Memory.read t.storage a) →
    (∀ k, k ≤ (s.buf b).count.toNat + 2 → u.ackAt k = true) →
    ∃ v, Host.Core.run Sys2Proof.core ((s.buf b).count.toNat + 3) u = .next v ∧
      (v.buf c).count = (s.buf b).count ∧ (v.buf c).sum = (s.buf b).sum ∧
      (v.buf c).logical (s.cap c) = (s.buf b).logical (s.cap b) ∧ (v.buf c).start = 0 ∧
      v.completedWith .ok t.regs.result

/-- 70_reset_and_hazards.md R231, 93_implementation_defined.md U9: another agent's write to the medium while a SAVE or
LOAD is in progress has no move; between commands the byte is a draw from then on (20_memory.md R69). -/
def Obligations.StorageIsExclusiveDuringTransfer : Prop :=
  ∀ (s : State) (a : Half) (ops : List HostOp), s.params.WellFormed → s.env.host = .medium a :: ops →
    (s.regs.busy = true → (∃ b off, decode s.eng.cmd = .instr (.save b off) ∨ decode s.eng.cmd = .instr (.load b off)) →
      step s = .refused .concurrentStorageAccess) ∧
    (s.regs.busy = false → a.toNat < s.params.storeSize → ∃ t, step s = .next t ∧
      Memory.read t.storage a.toNat = none ∧ t.bufs = s.bufs ∧
      ∀ j, j ≠ a.toNat → Memory.read t.storage j = Memory.read s.storage j)

/-! ## The host's operations (30_encoding.md R93, R94) -/

/-- 30_encoding.md R93: `wait` reads STATUS until BUSY = 0, and `wr CMD` then `wait` is how a command line runs. -/
def Obligations.HostWaitsForCompletion : Prop :=
  ∀ (s t : State) (ops : List HostOp), s.env.host = .wait :: ops → step s = .next t →
    t.regs.busRdata = some (s.readReg 0x08) ∧ t.env.host = (if s.regs.busy then .wait :: ops else ops)

/-- 30_encoding.md R94: `sample` and `clear_all` line by line; `push_reading` reads READING and pushes HUM into hs and hl,
TEMP into ts and tl; `save_all` and `load_all` begin with hs at the base, read RESULT after each block, go on with hl, ts,
tl at the offset the last block ended at, and stop where RESULT.VALID = 0 and after tl. -/
def Obligations.PseudoInstructionsFollowWhatTheyRead : Prop :=
  sampleOps = [.bus (.write 0x0C (encode .start)), .wait, .delayMs 18, .bus (.write 0x0C (encode .read)), .wait] ∧
  clearAllOps = [.bus (.write 0x0C (encode (.init .hs))), .wait, .bus (.write 0x0C (encode (.init .hl))), .wait,
    .bus (.write 0x0C (encode (.init .ts))), .wait, .bus (.write 0x0C (encode (.init .tl))), .wait] ∧
  (∀ base, saveAllOps base = [.chain false .hs base] ∧ loadAllOps base = [.chain true .hs base]) ∧
  ∀ (s t : State) (ops : List HostOp), step s = .next t →
    (s.env.host = .pushReading :: ops → s.accessNow = some (.read 0x18) ∧
      t.env.host =
        .bus (.write 0x0C (encode (.push .hs s.regs.reading.hum))) :: .wait ::
        .bus (.write 0x0C (encode (.push .hl s.regs.reading.hum))) :: .wait ::
        .bus (.write 0x0C (encode (.push .ts s.regs.reading.temp))) :: .wait ::
        .bus (.write 0x0C (encode (.push .tl s.regs.reading.temp))) :: .wait :: ops) ∧
    (∀ ld b o, s.env.host = .chainNext ld b o :: ops → s.accessNow = some (.read 0x14) ∧
      t.env.host =
        if s.regs.result.valid then
          match b with
          | .hs => .chain ld .hl (o + s.regs.result.value.toNat) :: ops
          | .hl => .chain ld .ts (o + s.regs.result.value.toNat) :: ops
          | .ts => .chain ld .tl (o + s.regs.result.value.toNat) :: ops
          | .tl => ops
        else ops) ∧
    (∀ b o, s.env.host = .chain false b o :: ops → o < 65536 →
      s.writesNow 3 = some (encode (.save b (BitVec.ofNat 16 o))) ∧
      t.env.host = .wait :: .chainNext false b o :: ops) ∧
    (∀ b o, s.env.host = .chain true b o :: ops → o < 65536 →
      s.writesNow 3 = some (encode (.load b (BitVec.ofNat 16 o))) ∧
      t.env.host = .wait :: .chainNext true b o :: ops)

/-! ## Invariants of every step -/

/-- 10_state.md R41, 20_memory.md R63, 42_ring_buffer.md R155, R157: every step keeps the invariant: the buffers' I1 and
I2, every readable slot written, every memory canonical and within its size, the storage port inside the block in
transfer and the medium. -/
def Obligations.EveryStepKeepsTheInvariant : Prop :=
  ∀ s t : State, s.Inv → step s = .next t → t.Inv

/-- The invariant holds at reset, in every elaboration the spec admits (10_state.md R48, 70_reset_and_hazards.md
R225). -/
def Obligations.InvariantHoldsAtReset : Prop :=
  (∀ p : Params, p.WellFormed → (State.resetWith p).Inv) ∧ State.reset.Inv

/-- 20_memory.md R63: the block never issues an access at an address at or beyond STORE_SIZE; so, in states of the
invariant, no step faults. -/
def Obligations.NoAccessBeyondTheMedium : Prop :=
  ∀ s : State, s.Inv →
    (s.port.req = true → s.port.addr.toNat < s.params.storeSize) ∧ ∀ f, step s ≠ .fault f

/-- 41_decoder.md R129 to R132, R138, 10_state.md R29, R32, R35: every step keeps the decoder's invariant: in particular
a READ polls and samples only with `pin_oe = 0`, its poll count stays below the budget, NBITS at most 40. -/
def Obligations.EveryStepKeepsTheDecoderInvariant : Prop :=
  ∀ s t : State, s.params.WellFormed → s.DecoderInv → step s = .next t → t.DecoderInv

/-- The decoder's invariant holds at reset (10_state.md R48). -/
def Obligations.DecoderInvariantHoldsAtReset : Prop :=
  (∀ p : Params, p.WellFormed → (State.resetWith p).DecoderInv) ∧ State.reset.DecoderInv

/-- 00_scope.md R7, 93_implementation_defined.md U21: the parameters never change; and a state with a parameter out of its
range has no step: U21 refuses a capacity of 0 at elaboration, and that `step` refuses every parameter out of the range
of R7 is the model's choice (log entry 17, DESIGN CHOICE). -/
def Obligations.ParametersAreFixed : Prop :=
  (∀ s t : State, step s = .next t → t.params = s.params) ∧
  (∀ s : State, ¬ s.params.WellFormed → step s = .refused .parametersOutOfRange)

/-- DSTATE around a READ's acceptance. 10_state.md R29 has RELEASE from the acceptance, and 41_decoder.md R123 and R137
write it at tick 0, one edge later, from any state: after the acceptance of a READ, and again after its tick 0, DSTATE is
RELEASE (that both hold together is log entry 8, DEDUCED). The acceptance of any other word leaves DSTATE as it is. -/
def Obligations.ReadShowsReleaseByTickZero : Prop :=
  ∀ (s : State) (w : Word), s.noMove = none → s.writesNow 3 = some w → s.resetNow = false → s.regs.busy = false →
    ∃ t, step s = .next t ∧
      (w.extractLsb' 0 4 ≠ 0x2 → t.regs.dstate = s.regs.dstate) ∧
      (w.extractLsb' 0 4 = 0x2 → t.regs.dstate = .release ∧
        (t.noMove = none → t.resetNow = false → ∃ u, step t = .next u ∧ u.regs.dstate = .release))
end

