-- ==== Sys2Proof/Laws/State.lean ====
section
/-! SUPPORT. One lemma per part of the state for each of its updates, all true by rfl: what a named operation writes and
what it leaves, so that no later proof unfolds a record update. -/

namespace Sys2Proof.Machine

@[simp] theorem State.setBuf_params (s : State) (b : BufId) (x : Buf) : (s.setBuf b x).params = s.params := rfl

@[simp] theorem State.setBuf_regs (s : State) (b : BufId) (x : Buf) : (s.setBuf b x).regs = s.regs := rfl

@[simp] theorem State.setBuf_bufs (s : State) (b : BufId) (x : Buf) :
    (s.setBuf b x).bufs = s.bufs.set b x := rfl

@[simp] theorem State.setBuf_pin (s : State) (b : BufId) (x : Buf) : (s.setBuf b x).pin = s.pin := rfl

@[simp] theorem State.setBuf_dec (s : State) (b : BufId) (x : Buf) : (s.setBuf b x).dec = s.dec := rfl

@[simp] theorem State.setBuf_eng (s : State) (b : BufId) (x : Buf) : (s.setBuf b x).eng = s.eng := rfl

@[simp] theorem State.setBuf_port (s : State) (b : BufId) (x : Buf) : (s.setBuf b x).port = s.port := rfl

@[simp] theorem State.setBuf_storage (s : State) (b : BufId) (x : Buf) : (s.setBuf b x).storage = s.storage := rfl

@[simp] theorem State.setBuf_env (s : State) (b : BufId) (x : Buf) : (s.setBuf b x).env = s.env := rfl

@[simp] theorem State.drive_params (s : State) (oe out : Bool) : (s.drive oe out).params = s.params := rfl

@[simp] theorem State.drive_regs (s : State) (oe out : Bool) : (s.drive oe out).regs = s.regs := rfl

@[simp] theorem State.drive_bufs (s : State) (oe out : Bool) : (s.drive oe out).bufs = s.bufs := rfl

@[simp] theorem State.drive_pin (s : State) (oe out : Bool) :
    (s.drive oe out).pin = { oe := oe, out := out } := rfl

@[simp] theorem State.drive_dec (s : State) (oe out : Bool) : (s.drive oe out).dec = s.dec := rfl

@[simp] theorem State.drive_eng (s : State) (oe out : Bool) : (s.drive oe out).eng = s.eng := rfl

@[simp] theorem State.drive_port (s : State) (oe out : Bool) : (s.drive oe out).port = s.port := rfl

@[simp] theorem State.drive_storage (s : State) (oe out : Bool) : (s.drive oe out).storage = s.storage := rfl

@[simp] theorem State.drive_env (s : State) (oe out : Bool) : (s.drive oe out).env = s.env := rfl

@[simp] theorem State.setDState_params (s : State) (d : DState) : (s.setDState d).params = s.params := rfl

@[simp] theorem State.setDState_regs (s : State) (d : DState) :
    (s.setDState d).regs = { s.regs with dstate := d } := rfl

@[simp] theorem State.setDState_bufs (s : State) (d : DState) : (s.setDState d).bufs = s.bufs := rfl

@[simp] theorem State.setDState_pin (s : State) (d : DState) : (s.setDState d).pin = s.pin := rfl

@[simp] theorem State.setDState_dec (s : State) (d : DState) : (s.setDState d).dec = s.dec := rfl

@[simp] theorem State.setDState_eng (s : State) (d : DState) : (s.setDState d).eng = s.eng := rfl

@[simp] theorem State.setDState_port (s : State) (d : DState) : (s.setDState d).port = s.port := rfl

@[simp] theorem State.setDState_storage (s : State) (d : DState) : (s.setDState d).storage = s.storage := rfl

@[simp] theorem State.setDState_env (s : State) (d : DState) : (s.setDState d).env = s.env := rfl

@[simp] theorem State.complete_params (s : State) (e : Err) (r : Result) : (s.complete e r).params = s.params := rfl

@[simp] theorem State.complete_regs (s : State) (e : Err) (r : Result) :
    (s.complete e r).regs = { s.regs with err := e, result := r, busy := false, done := true } := rfl

@[simp] theorem State.complete_bufs (s : State) (e : Err) (r : Result) : (s.complete e r).bufs = s.bufs := rfl

@[simp] theorem State.complete_pin (s : State) (e : Err) (r : Result) : (s.complete e r).pin = s.pin := rfl

@[simp] theorem State.complete_dec (s : State) (e : Err) (r : Result) : (s.complete e r).dec = s.dec := rfl

@[simp] theorem State.complete_eng (s : State) (e : Err) (r : Result) : (s.complete e r).eng = s.eng := rfl

@[simp] theorem State.complete_port (s : State) (e : Err) (r : Result) : (s.complete e r).port = s.port := rfl

@[simp] theorem State.complete_storage (s : State) (e : Err) (r : Result) : (s.complete e r).storage = s.storage := rfl

@[simp] theorem State.complete_env (s : State) (e : Err) (r : Result) : (s.complete e r).env = s.env := rfl

@[simp] theorem State.raise_params (s : State) (e : Err) : (s.raise e).params = s.params := rfl

@[simp] theorem State.raise_regs (s : State) (e : Err) :
    (s.raise e).regs = { s.regs with err := e, result := Result.none, busy := false, done := true } := rfl

@[simp] theorem State.raise_bufs (s : State) (e : Err) : (s.raise e).bufs = s.bufs := rfl

@[simp] theorem State.raise_pin (s : State) (e : Err) : (s.raise e).pin = s.pin := rfl

@[simp] theorem State.raise_dec (s : State) (e : Err) : (s.raise e).dec = s.dec := rfl

@[simp] theorem State.raise_eng (s : State) (e : Err) : (s.raise e).eng = s.eng := rfl

@[simp] theorem State.raise_port (s : State) (e : Err) : (s.raise e).port = s.port := rfl

@[simp] theorem State.raise_storage (s : State) (e : Err) : (s.raise e).storage = s.storage := rfl

@[simp] theorem State.raise_env (s : State) (e : Err) : (s.raise e).env = s.env := rfl

@[simp] theorem State.begin_params (s : State) : s.begin.params = s.params := rfl

@[simp] theorem State.begin_regs (s : State) : s.begin.regs = s.regs := rfl

@[simp] theorem State.begin_bufs (s : State) : s.begin.bufs = s.bufs := rfl

@[simp] theorem State.begin_pin (s : State) : s.begin.pin = s.pin := rfl

@[simp] theorem State.begin_dec (s : State) : s.begin.dec = s.dec := rfl

@[simp] theorem State.begin_eng (s : State) :
    s.begin.eng = { s.eng with started := true } := rfl

@[simp] theorem State.begin_port (s : State) : s.begin.port = s.port := rfl

@[simp] theorem State.begin_storage (s : State) : s.begin.storage = s.storage := rfl

@[simp] theorem State.begin_env (s : State) : s.begin.env = s.env := rfl

@[simp] theorem State.issueWrite_params (s : State) (off : Half) (j : Nat) (v : Byte) : (s.issueWrite off j v).params = s.params := rfl

@[simp] theorem State.issueWrite_regs (s : State) (off : Half) (j : Nat) (v : Byte) : (s.issueWrite off j v).regs = s.regs := rfl

@[simp] theorem State.issueWrite_bufs (s : State) (off : Half) (j : Nat) (v : Byte) : (s.issueWrite off j v).bufs = s.bufs := rfl

@[simp] theorem State.issueWrite_pin (s : State) (off : Half) (j : Nat) (v : Byte) : (s.issueWrite off j v).pin = s.pin := rfl

@[simp] theorem State.issueWrite_dec (s : State) (off : Half) (j : Nat) (v : Byte) : (s.issueWrite off j v).dec = s.dec := rfl

@[simp] theorem State.issueWrite_eng (s : State) (off : Half) (j : Nat) (v : Byte) :
    (s.issueWrite off j v).eng = { s.eng with idx := j } := rfl

@[simp] theorem State.issueWrite_port (s : State) (off : Half) (j : Nat) (v : Byte) :
    (s.issueWrite off j v).port = { req := true, we := true, addr := BitVec.ofNat 16 (off.toNat + j), wdata := v } := rfl

@[simp] theorem State.issueWrite_storage (s : State) (off : Half) (j : Nat) (v : Byte) : (s.issueWrite off j v).storage = s.storage := rfl

@[simp] theorem State.issueWrite_env (s : State) (off : Half) (j : Nat) (v : Byte) : (s.issueWrite off j v).env = s.env := rfl

@[simp] theorem State.issueRead_params (s : State) (off : Half) (j : Nat) : (s.issueRead off j).params = s.params := rfl

@[simp] theorem State.issueRead_regs (s : State) (off : Half) (j : Nat) : (s.issueRead off j).regs = s.regs := rfl

@[simp] theorem State.issueRead_bufs (s : State) (off : Half) (j : Nat) : (s.issueRead off j).bufs = s.bufs := rfl

@[simp] theorem State.issueRead_pin (s : State) (off : Half) (j : Nat) : (s.issueRead off j).pin = s.pin := rfl

@[simp] theorem State.issueRead_dec (s : State) (off : Half) (j : Nat) : (s.issueRead off j).dec = s.dec := rfl

@[simp] theorem State.issueRead_eng (s : State) (off : Half) (j : Nat) :
    (s.issueRead off j).eng = { s.eng with idx := j } := rfl

@[simp] theorem State.issueRead_port (s : State) (off : Half) (j : Nat) :
    (s.issueRead off j).port = { s.port with req := true, we := false, addr := BitVec.ofNat 16 (off.toNat + j) } := rfl

@[simp] theorem State.issueRead_storage (s : State) (off : Half) (j : Nat) : (s.issueRead off j).storage = s.storage := rfl

@[simp] theorem State.issueRead_env (s : State) (off : Half) (j : Nat) : (s.issueRead off j).env = s.env := rfl

@[simp] theorem State.endAccess_params (s : State) : s.endAccess.params = s.params := rfl

@[simp] theorem State.endAccess_regs (s : State) : s.endAccess.regs = s.regs := rfl

@[simp] theorem State.endAccess_bufs (s : State) : s.endAccess.bufs = s.bufs := rfl

@[simp] theorem State.endAccess_pin (s : State) : s.endAccess.pin = s.pin := rfl

@[simp] theorem State.endAccess_dec (s : State) : s.endAccess.dec = s.dec := rfl

@[simp] theorem State.endAccess_eng (s : State) : s.endAccess.eng = s.eng := rfl

@[simp] theorem State.endAccess_port (s : State) :
    s.endAccess.port = { s.port with req := false } := rfl

@[simp] theorem State.endAccess_storage (s : State) : s.endAccess.storage = s.storage := rfl

@[simp] theorem State.endAccess_env (s : State) : s.endAccess.env = s.env := rfl

@[simp] theorem State.setLen_params (s : State) (l : Half) : (s.setLen l).params = s.params := rfl

@[simp] theorem State.setLen_regs (s : State) (l : Half) : (s.setLen l).regs = s.regs := rfl

@[simp] theorem State.setLen_bufs (s : State) (l : Half) : (s.setLen l).bufs = s.bufs := rfl

@[simp] theorem State.setLen_pin (s : State) (l : Half) : (s.setLen l).pin = s.pin := rfl

@[simp] theorem State.setLen_dec (s : State) (l : Half) : (s.setLen l).dec = s.dec := rfl

@[simp] theorem State.setLen_eng (s : State) (l : Half) :
    (s.setLen l).eng = { s.eng with len := l } := rfl

@[simp] theorem State.setLen_port (s : State) (l : Half) : (s.setLen l).port = s.port := rfl

@[simp] theorem State.setLen_storage (s : State) (l : Half) : (s.setLen l).storage = s.storage := rfl

@[simp] theorem State.setLen_env (s : State) (l : Half) : (s.setLen l).env = s.env := rfl

@[simp] theorem State.setPhase_params (s : State) (p : ReadPhase) : (s.setPhase p).params = s.params := rfl

@[simp] theorem State.setPhase_regs (s : State) (p : ReadPhase) : (s.setPhase p).regs = s.regs := rfl

@[simp] theorem State.setPhase_bufs (s : State) (p : ReadPhase) : (s.setPhase p).bufs = s.bufs := rfl

@[simp] theorem State.setPhase_pin (s : State) (p : ReadPhase) : (s.setPhase p).pin = s.pin := rfl

@[simp] theorem State.setPhase_dec (s : State) (p : ReadPhase) :
    (s.setPhase p).dec = { s.dec with phase := p } := rfl

@[simp] theorem State.setPhase_eng (s : State) (p : ReadPhase) : (s.setPhase p).eng = s.eng := rfl

@[simp] theorem State.setPhase_port (s : State) (p : ReadPhase) : (s.setPhase p).port = s.port := rfl

@[simp] theorem State.setPhase_storage (s : State) (p : ReadPhase) : (s.setPhase p).storage = s.storage := rfl

@[simp] theorem State.setPhase_env (s : State) (p : ReadPhase) : (s.setPhase p).env = s.env := rfl

@[simp] theorem State.setPolls_params (s : State) (k : Nat) : (s.setPolls k).params = s.params := rfl

@[simp] theorem State.setPolls_regs (s : State) (k : Nat) : (s.setPolls k).regs = s.regs := rfl

@[simp] theorem State.setPolls_bufs (s : State) (k : Nat) : (s.setPolls k).bufs = s.bufs := rfl

@[simp] theorem State.setPolls_pin (s : State) (k : Nat) : (s.setPolls k).pin = s.pin := rfl

@[simp] theorem State.setPolls_dec (s : State) (k : Nat) :
    (s.setPolls k).dec = { s.dec with polls := k } := rfl

@[simp] theorem State.setPolls_eng (s : State) (k : Nat) : (s.setPolls k).eng = s.eng := rfl

@[simp] theorem State.setPolls_port (s : State) (k : Nat) : (s.setPolls k).port = s.port := rfl

@[simp] theorem State.setPolls_storage (s : State) (k : Nat) : (s.setPolls k).storage = s.storage := rfl

@[simp] theorem State.setPolls_env (s : State) (k : Nat) : (s.setPolls k).env = s.env := rfl

@[simp] theorem State.decideRead_params (s : State) (e : Err) : (s.decideRead e).params = s.params := rfl

@[simp] theorem State.decideRead_regs (s : State) (e : Err) : (s.decideRead e).regs = s.regs := rfl

@[simp] theorem State.decideRead_bufs (s : State) (e : Err) : (s.decideRead e).bufs = s.bufs := rfl

@[simp] theorem State.decideRead_pin (s : State) (e : Err) : (s.decideRead e).pin = s.pin := rfl

@[simp] theorem State.decideRead_dec (s : State) (e : Err) :
    (s.decideRead e).dec = { s.dec with phase := .finish e } := rfl

@[simp] theorem State.decideRead_eng (s : State) (e : Err) : (s.decideRead e).eng = s.eng := rfl

@[simp] theorem State.decideRead_port (s : State) (e : Err) : (s.decideRead e).port = s.port := rfl

@[simp] theorem State.decideRead_storage (s : State) (e : Err) : (s.decideRead e).storage = s.storage := rfl

@[simp] theorem State.decideRead_env (s : State) (e : Err) : (s.decideRead e).env = s.env := rfl

@[simp] theorem State.dropCommand_params (s : State) : s.dropCommand.params = s.params := rfl

@[simp] theorem State.dropCommand_regs (s : State) :
    s.dropCommand.regs = { s.regs with drop := true } := rfl

@[simp] theorem State.dropCommand_bufs (s : State) : s.dropCommand.bufs = s.bufs := rfl

@[simp] theorem State.dropCommand_pin (s : State) : s.dropCommand.pin = s.pin := rfl

@[simp] theorem State.dropCommand_dec (s : State) : s.dropCommand.dec = s.dec := rfl

@[simp] theorem State.dropCommand_eng (s : State) : s.dropCommand.eng = s.eng := rfl

@[simp] theorem State.dropCommand_port (s : State) : s.dropCommand.port = s.port := rfl

@[simp] theorem State.dropCommand_storage (s : State) : s.dropCommand.storage = s.storage := rfl

@[simp] theorem State.dropCommand_env (s : State) : s.dropCommand.env = s.env := rfl

@[simp] theorem State.performAccess_params (s : State) : s.performAccess.params = s.params := by
  unfold State.performAccess; split <;> rfl

@[simp] theorem State.performAccess_regs (s : State) : s.performAccess.regs = s.regs := by
  unfold State.performAccess; split <;> rfl

@[simp] theorem State.performAccess_bufs (s : State) : s.performAccess.bufs = s.bufs := by
  unfold State.performAccess; split <;> rfl

@[simp] theorem State.performAccess_pin (s : State) : s.performAccess.pin = s.pin := by
  unfold State.performAccess; split <;> rfl

@[simp] theorem State.performAccess_dec (s : State) : s.performAccess.dec = s.dec := by
  unfold State.performAccess; split <;> rfl

@[simp] theorem State.performAccess_eng (s : State) : s.performAccess.eng = s.eng := by
  unfold State.performAccess; split <;> rfl

@[simp] theorem State.performAccess_port (s : State) : s.performAccess.port = s.port := by
  unfold State.performAccess; split <;> rfl

@[simp] theorem State.performAccess_storage (s : State) : s.performAccess.storage =
    if s.port.we then Memory.write s.storage s.port.addr.toNat s.port.wdata else s.storage := by
  unfold State.performAccess; split <;> rfl

@[simp] theorem State.performAccess_env (s : State) : s.performAccess.env = s.env := by
  unfold State.performAccess; split <;> rfl

@[simp] theorem Bufs.get_set_same (bs : Bufs) (b : BufId) (x : Buf) : (bs.set b x).get b = x := by
  cases b <;> rfl

theorem Bufs.get_set_other (bs : Bufs) {b c : BufId} (h : c ≠ b) (x : Buf) : (bs.set b x).get c = bs.get c := by
  cases b <;> cases c <;> first | rfl | exact absurd rfl h

@[simp] theorem State.buf_setBuf_same (s : State) (b : BufId) (x : Buf) : (s.setBuf b x).buf b = x :=
  Bufs.get_set_same _ _ _

theorem State.buf_setBuf_other (s : State) {b c : BufId} (h : c ≠ b) (x : Buf) : (s.setBuf b x).buf c = s.buf c :=
  Bufs.get_set_other _ h _

/-- A buffer is read from `bufs` alone. -/
theorem State.buf_congr {s t : State} (h : t.bufs = s.bufs) (b : BufId) : t.buf b = s.buf b := by
  simp only [State.buf, h]

theorem closeEdge_regs (s t : State) : (s.closeEdge t).regs = t.regs := rfl
theorem closeEdge_params (s t : State) : (s.closeEdge t).params = t.params := rfl
theorem closeEdge_bufs (s t : State) : (s.closeEdge t).bufs = t.bufs := rfl
theorem closeEdge_pin (s t : State) : (s.closeEdge t).pin = t.pin := rfl
theorem closeEdge_eng (s t : State) : (s.closeEdge t).eng = t.eng := rfl
theorem closeEdge_port (s t : State) : (s.closeEdge t).port = t.port := rfl
theorem closeEdge_storage (s t : State) : (s.closeEdge t).storage = t.storage := rfl
theorem closeEdge_dec (s t : State) : (s.closeEdge t).dec = { t.dec with sync := s.syncAfter } := rfl

end Sys2Proof.Machine
end

