-- ==== Sys2Proof/Laws/Ops.lean ====
section
/-! SUPPORT. For each shared operation, once, what it can do; provers cite these instead of unfolding it. -/

namespace Sys2Proof.Machine

/-- An edge with a storage access outstanding: it waits, or the medium performs the access and the command goes on; it
faults only at an address the medium does not have. -/
theorem State.storageAccess_next {s t : State} {k : Byte → State → State} (h : s.storageAccess k = .next t) :
    (¬(s.port.req = true ∧ s.ackNow = true) ∧ t = s) ∨
    (s.port.req = true ∧ s.ackNow = true ∧ s.port.addr.toNat < s.params.storeSize ∧
      t = k (s.storageRead s.port.addr.toNat) s.performAccess) := by
  unfold State.storageAccess at h
  split at h
  · next hra =>
    split at h
    · next hb =>
      rw [Bool.and_eq_true] at hra
      injection h with h
      exact .inr ⟨hra.1, hra.2, hb, h.symm⟩
    · cases h
  · next hra =>
    injection h with h
    exact .inl ⟨by rwa [Bool.and_eq_true] at hra, h.symm⟩

/-- It never refuses. -/
theorem State.storageAccess_not_refused (s : State) (k : Byte → State → State) (r : Refusal) :
    s.storageAccess k ≠ .refused r := by
  unfold State.storageAccess
  split
  · split <;> exact fun h => by cases h
  · exact fun h => by cases h

/-- It faults exactly when the access is acknowledged at an address the medium does not have. -/
theorem State.storageAccess_fault {s : State} {k : Byte → State → State} {r : Fault}
    (h : s.storageAccess k = .fault r) :
    s.port.req = true ∧ s.ackNow = true ∧ s.params.storeSize ≤ s.port.addr.toNat := by
  unfold State.storageAccess at h
  split at h
  · next hra =>
    rw [Bool.and_eq_true] at hra
    split at h
    · cases h
    · next hb => exact ⟨hra.1, hra.2, Nat.le_of_not_lt hb⟩
  · cases h

/-- A poll of a low phase: three ways on. -/
theorem State.lowPoll_cases (s : State) (t : Nat) (v : Bool) :
    (v = true ∧ s.lowPoll t v = s.setPhase (.settle (t + s.params.tSettle))) ∨
    (v = false ∧ s.dec.polls = s.dec.budget.toNat ∧ s.lowPoll t v = s.decideRead .bitTimeout) ∨
    (v = false ∧ s.dec.polls ≠ s.dec.budget.toNat ∧ s.lowPoll t v = s.setPhase .low) := by
  cases v
  · by_cases h : s.dec.polls = s.dec.budget.toNat
    · exact .inr (.inl ⟨rfl, h, by simp [State.lowPoll, h]⟩)
    · exact .inr (.inr ⟨rfl, h, by simp [State.lowPoll, h]⟩)
  · exact .inl ⟨rfl, by simp [State.lowPoll]⟩

/-- A poll of a high phase that reads 1: the budget is used up, or the phase goes on. -/
theorem State.highPoll_true (s : State) (t : Nat) :
    s.highPoll t true =
      if s.dec.polls = s.dec.budget.toNat then s.decideRead .bitTimeout else s.setPhase .high := by
  simp [State.highPoll]

/-- A poll of a high phase that reads 0 ends the bit: the next bit's low phase, or the checksum. -/
theorem State.highPoll_false (s : State) (t : Nat) :
    s.highPoll t false =
      if s.dec.bit + 1 < 40 then
        ({ s with dec := { s.dec with bit := s.dec.bit + 1, polls := 1 } }).lowPoll t false
      else
        ({ s with dec := { s.dec with bit := s.dec.bit + 1, polls := 1 } }).decideRead
          (if s.regs.frame.sumOk then .ok else .checksum) := by
  simp [State.highPoll]

/-- Everything but the decoder, the registers and the pin is left by a tick of READ. -/
theorem State.readTick_frame (s : State) (t : Nat) :
    (s.readTick t).params = s.params ∧ (s.readTick t).bufs = s.bufs ∧ (s.readTick t).eng = s.eng ∧
    (s.readTick t).port = s.port ∧ (s.readTick t).storage = s.storage ∧ (s.readTick t).env = s.env := by
  have low : ∀ (u : State) (v : Bool), (u.lowPoll t v).params = u.params ∧ (u.lowPoll t v).bufs = u.bufs ∧
      (u.lowPoll t v).eng = u.eng ∧ (u.lowPoll t v).port = u.port ∧ (u.lowPoll t v).storage = u.storage ∧
      (u.lowPoll t v).env = u.env := by
    intro u v
    rcases u.lowPoll_cases t v with ⟨_, h⟩ | ⟨_, _, h⟩ | ⟨_, _, h⟩ <;> simp [h]
  have high : ∀ (u : State) (v : Bool), (u.highPoll t v).params = u.params ∧ (u.highPoll t v).bufs = u.bufs ∧
      (u.highPoll t v).eng = u.eng ∧ (u.highPoll t v).port = u.port ∧ (u.highPoll t v).storage = u.storage ∧
      (u.highPoll t v).env = u.env := by
    intro u v
    cases v
    · rw [State.highPoll_false]
      split
      · exact low _ _
      · simp
    · rw [State.highPoll_true]
      split <;> simp
  unfold State.readTick
  split
  · split <;> simp
  · split
    · split <;> simp
    · simp
  · split
    · split <;> simp
    · simp
  · split
    · exact low _ _
    · simp
  · exact low _ _
  · split
    · exact high _ _
    · simp
  · exact high _ _
  · simp

/-- A push writes one slot of the sample memory and keeps it canonical. -/
theorem Buf.push_sram (x : Buf) (cap : Nat) (old v : Byte) :
    (x.push cap old v).sram = Memory.write x.sram (x.slot cap x.count.toNat) v := by
  unfold Buf.push
  split <;> rfl

/-- Pushing is the one way LOAD changes a buffer after it has emptied it. -/
theorem State.pushStep_buf (s : State) (b : BufId) (v : Byte) :
    (s.pushStep b v).buf b = (s.buf b).push (s.cap b) (s.sramRead b (s.buf b).start.toNat) v :=
  State.buf_setBuf_same _ _ _

/-- A step is one of: a refusal, a reset edge, an engine step of the command in progress, an edge without a command. -/
theorem step_cases (s : State) :
    (∃ r, s.noMove = some r ∧ step s = .refused r) ∨
    (s.noMove = none ∧ s.resetNow = true ∧ step s = .next s.resetEdge) ∨
    (s.noMove = none ∧ s.resetNow = false ∧ s.regs.busy = false ∧ step s = .next (s.closeEdge s.hostEdge)) ∨
    (s.noMove = none ∧ s.resetNow = false ∧ s.regs.busy = true ∧ ∃ i, decode s.eng.cmd = .instr i ∧
      step s = onNext s.closeEdge (exec i s.hostEdge)) ∨
    (s.noMove = none ∧ s.resetNow = false ∧ s.regs.busy = true ∧ ∃ op, decode s.eng.cmd = .illegal op ∧
      step s = .next (s.closeEdge s.hostEdge.execIllegal)) := by
  unfold step
  cases hn : s.noMove with
  | some r => exact .inl ⟨r, rfl, rfl⟩
  | none =>
    refine .inr ?_
    cases hr : s.resetNow
    · cases hb : s.regs.busy
      · exact .inr (.inl ⟨rfl, rfl, rfl, rfl⟩)
      · cases hd : decode s.eng.cmd with
        | instr i => exact .inr (.inr (.inl ⟨rfl, rfl, rfl, i, rfl, rfl⟩))
        | illegal op => exact .inr (.inr (.inr ⟨rfl, rfl, rfl, op, rfl, rfl⟩))
    · exact .inl ⟨rfl, rfl, rfl⟩

/-- The acceptance of a word that is no READ leaves DSTATE as it is. -/
theorem State.acceptDState_of_ne_read (s : State) {w : Word} (h : opField w ≠ 2#4) :
    s.acceptDState w = s.regs.dstate := by
  simp [State.acceptDState, h]

/-- The acceptance of a READ makes DSTATE RELEASE. -/
theorem State.acceptDState_of_read (s : State) {w : Word} (h : opField w = 2#4) : s.acceptDState w = .release := by
  simp [State.acceptDState, h]

/-- A bus access changes registers, and on acceptance the engine's command and the copied budget; nothing else. -/
theorem State.busEdge_frame (s : State) (a : Option Access) :
    (s.busEdge a).params = s.params ∧ (s.busEdge a).bufs = s.bufs ∧ (s.busEdge a).pin = s.pin ∧
    (s.busEdge a).port = s.port ∧ (s.busEdge a).storage = s.storage ∧ (s.busEdge a).env = s.env := by
  have w : ∀ addr d, (s.writeReg addr d).params = s.params ∧ (s.writeReg addr d).bufs = s.bufs ∧
      (s.writeReg addr d).pin = s.pin ∧ (s.writeReg addr d).port = s.port ∧
      (s.writeReg addr d).storage = s.storage ∧ (s.writeReg addr d).env = s.env := by
    intro addr d
    unfold State.writeReg
    split <;> first | exact ⟨rfl, rfl, rfl, rfl, rfl, rfl⟩ | (split <;> exact ⟨rfl, rfl, rfl, rfl, rfl, rfl⟩)
  match a with
  | none => exact ⟨rfl, rfl, rfl, rfl, rfl, rfl⟩
  | some (.read addr) => exact ⟨rfl, rfl, rfl, rfl, rfl, rfl⟩
  | some (.write addr d) => exact w addr d

/-- While a command is in progress a bus access leaves the engine and the decoder. -/
theorem State.busEdge_busy {s : State} (h : s.regs.busy = true) (a : Option Access) :
    (s.busEdge a).eng = s.eng ∧ (s.busEdge a).dec = s.dec ∧ (s.busEdge a).regs.busy = true := by
  have w : ∀ addr d, (s.writeReg addr d).eng = s.eng ∧ (s.writeReg addr d).dec = s.dec ∧
      (s.writeReg addr d).regs.busy = true := by
    intro addr d
    unfold State.writeReg
    split <;> first | exact ⟨rfl, rfl, h⟩ | (rw [if_pos h]; exact ⟨rfl, rfl, h⟩)
  match a with
  | none => exact ⟨rfl, rfl, h⟩
  | some (.read addr) => exact ⟨rfl, rfl, h⟩
  | some (.write addr d) => exact w addr d

end Sys2Proof.Machine
end

