-- ==== Sys2Proof/Laws/Invariants.lean ====
section
/-! SUPPORT. How the invariants of Safety.lean are met, case by case, so that a proof need not unfold their matches. -/

namespace Sys2Proof.Machine

/-- Without a command that has begun, no access is outstanding, and that is all. -/
theorem State.transferInv_idle {s : State} (h : ¬(s.regs.busy = true ∧ s.eng.started = true))
    (hr : s.port.req = false) : s.TransferInv := by
  unfold State.TransferInv
  rwa [if_neg h]

/-- A SAVE in transfer. -/
theorem State.transferInv_save {s : State} {b : BufId} {off : Half} (hb : s.regs.busy = true)
    (hs : s.eng.started = true) (hd : decode s.eng.cmd = .instr (.save b off)) :
    s.TransferInv ↔
      s.port.req = true ∧ s.port.we = true ∧ s.port.addr.toNat = off.toNat + s.eng.idx ∧
      s.eng.idx < (s.buf b).count.toNat + 2 ∧ off.toNat + 2 + (s.buf b).count.toNat ≤ s.params.storeSize := by
  unfold State.TransferInv
  rw [if_pos ⟨hb, hs⟩, hd]

/-- A LOAD in transfer. -/
theorem State.transferInv_load {s : State} {b : BufId} {off : Half} (hb : s.regs.busy = true)
    (hs : s.eng.started = true) (hd : decode s.eng.cmd = .instr (.load b off)) :
    s.TransferInv ↔
      s.port.req = true ∧ s.port.we = false ∧ s.port.addr.toNat = off.toNat + s.eng.idx ∧
      off.toNat + 2 ≤ s.params.storeSize ∧
      (2 ≤ s.eng.idx → s.eng.idx < s.eng.len.toNat + 2 ∧ off.toNat + 2 + s.eng.len.toNat ≤ s.params.storeSize) := by
  unfold State.TransferInv
  rw [if_pos ⟨hb, hs⟩, hd]

/-- Outside a READ that has begun, the decoder's invariant is the budgets, RELEASE, the synchroniser and NBITS. -/
theorem State.decoderInv_idle {s : State} (h : ¬s.inRead) (hb : s.regs.budget ≠ 0)
    (hd : s.regs.busy = true → decode s.eng.cmd = .instr .read →
      s.dec.budget ≠ 0 ∧ (s.eng.started = false → s.regs.dstate = .release))
    (hs : s.dec.sync.length = s.params.syncStages) (hn : s.regs.nbits.toNat ≤ 40) : s.DecoderInv :=
  ⟨hb, hd, hs, hn, fun hr => absurd hr h⟩

/-- A buffer's invariant bounds its sum by its count. -/
theorem total_le (vs : List Byte) : total vs ≤ 255 * vs.length := by
  unfold total
  induction vs with
  | nil => simp
  | cons v vs ih =>
    have := v.isLt
    simp only [List.map_cons, List.sum_cons, List.length_cons]
    omega

@[simp] theorem Buf.length_logical (x : Buf) (cap : Nat) : (x.logical cap).length = x.count.toNat := by
  simp [Buf.logical, Buf.cells]

/-- A storage read in this cycle finds the byte of this cycle. -/
theorem State.byteAt_zero (s : State) (a : Nat) : s.byteAt 0 a = s.storageRead a := rfl

/-- A listed byte is found in every cycle. -/
theorem State.byteAt_of_read {s : State} {a : Nat} {x : Byte} (h : Memory.read s.storage a = some x) (k : Nat) :
    s.byteAt k a = x := by
  simp [State.byteAt, h]

end Sys2Proof.Machine
end

