-- ==== Sys2Proof/Laws/PerInstr.lean ====
section
/-! SUPPORT. A statement about every instruction as syntax, one lemma per constructor: the word the encoder writes has
the instruction's opcode in OP, and every ignored bit of [15:6] is 0 (spec/30_encoding.md R86, R92). -/

namespace Sys2Proof.Laws.EncodedWord

/-- The word of `i` holds its opcode, and 0 in bits [15:6]. -/
def Statement (i : Instr) : Prop :=
  opField (encode i) = i.opcode ∧ (encode i).extractLsb' 6 10 = 0

theorem packed (op : BitVec 4) (b : BitVec 2) (arg : Half) :
    opField (packWord op b arg) = op ∧ (packWord op b arg).extractLsb' 6 10 = 0 := by
  unfold opField packWord placeField
  constructor
  · ext k hk
    interval_cases k <;> simp
  · ext k hk
    interval_cases k <;> simp

theorem start : Statement .start := packed _ _ _
theorem read : Statement .read := packed _ _ _
theorem init (b : BufId) : Statement (.init b) := packed _ _ _
theorem push (b : BufId) (x : Byte) : Statement (.push b x) := packed _ _ _
theorem atIndex (b : BufId) (i : Half) : Statement (.atIndex b i) := packed _ _ _
theorem avg (b : BufId) : Statement (.avg b) := packed _ _ _
theorem save (b : BufId) (off : Half) : Statement (.save b off) := packed _ _ _
theorem load (b : BufId) (off : Half) : Statement (.load b off) := packed _ _ _

end Sys2Proof.Laws.EncodedWord
end

