-- ==== Sys2Proof/Tests/Slice0.lean ====
section
/-! SUPPORT. Tests whose expected values are the spec's own (95_test_vectors.md, the examples of the rules) or counted
by hand from its rules, and for every obligation with hypotheses a concrete case that meets them (`witness_…`). -/

namespace Sys2Proof.Tests

open Sys2Proof Sys2Proof.Machine

/-! ## Words (30_encoding.md R85, R95), written out bit by bit -/

theorem test_decode_start : decode 0b00000000000000000000000000000001 = .instr .start := by decide
theorem test_decode_read : decode 0b00000000000000000000000000000010 = .instr .read := by decide
theorem test_decode_init : decode 0b00000000000000000000000000010011 = .instr (.init .hl) := by decide
theorem test_decode_push : decode 0b00000000001100100000000000000100 = .instr (.push .hs 0x32) := by decide
theorem test_decode_at : decode 0b00000000000010010000000000000101 = .instr (.atIndex .hs 9) := by decide
theorem test_decode_avg : decode 0b00000000000000000000000000110110 = .instr (.avg .tl) := by decide
theorem test_decode_save : decode 0b00000001000000000000000000000111 = .instr (.save .hs 0x100) := by decide
theorem test_decode_load : decode 0b00000000000100000000000000111000 = .instr (.load .tl 0x10) := by decide
theorem test_decode_illegal : decode 0 = .illegal 0 ∧ decode 9 = .illegal 9 ∧ decode 15 = .illegal 15 := by decide
/-- 95_test_vectors.md H14, H15. -/
theorem test_decode_ignores : decode 0xFFFFFFF3 = .instr (.init .tl) ∧ decode 0xAB320004 = .instr (.push .hs 0x32) := by
  decide
theorem test_table_word : decodeTableWord 4 0x8 = some (.load .hs 0) ∧ decodeTableWord 32 0 = none := by decide

/-! ## Well-formedness (30_encoding.md R92, 00_scope.md R7) -/

theorem test_wf_buf : (AsmLine.init 4).wellFormed = false ∧ (AsmLine.avg 4).wellFormed = false := by decide
theorem test_wf_push : (AsmLine.push 4 0).wellFormed = false ∧ (AsmLine.push 0 256).wellFormed = false := by decide
theorem test_wf_at : (AsmLine.atIndex 4 0).wellFormed = false ∧ (AsmLine.atIndex 0 65536).wellFormed = false := by
  decide
theorem test_wf_save : (AsmLine.save 4 0).wellFormed = false ∧ (AsmLine.save 0 65536).wellFormed = false := by decide
theorem test_wf_load : (AsmLine.load 4 0).wellFormed = false ∧ (AsmLine.load 0 65536).wellFormed = false := by decide
theorem test_wf_word : (AsmLine.word 4294967296).wellFormed = false := by decide
theorem test_wf_params : Params.reference.WellFormed := by decide
theorem test_wf_params_capacity : ¬({ Params.reference with cap3 := 0 } : Params).WellFormed := by decide
theorem test_wf_params_medium : ¬({ Params.reference with storeSize := 65537 } : Params).WellFormed := by decide
theorem test_wf_params_cycles : ¬({ Params.reference with cycPerUs := 0 } : Params).WellFormed := by decide
theorem test_wf_params_stages : ¬({ Params.reference with syncStages := 5 } : Params).WellFormed := by decide
theorem test_wf_params_delay : ¬({ Params.reference with tSettle := 0 } : Params).WellFormed := by decide
theorem test_wf_params_budget : ¬({ Params.reference with budgetReset := 65536 } : Params).WellFormed := by decide

/-! ## Helpers -/

/-- The state after an outcome, or `s` where there is none. -/
def nextOr (s : State) : Host.Outcome State Fault Refusal → State
  | .next t => t
  | _ => s

/-- The state after `n` edges. -/
def after (n : Nat) (s : State) : State := nextOr s (Host.Core.run Sys2Proof.core n s)

/-- A small block: buffers of 2, 3, 1 and 2, a medium of 8 bytes, one cycle a tick, one tick a delay. -/
def small : Params :=
  { cap0 := 2, cap1 := 3, cap2 := 1, cap3 := 2, storeSize := 8, cycPerUs := 1, syncStages := 1, tRelHigh := 1,
    tRelInput := 1, tAck := 1, tAckEnd := 1, tSettle := 1, budgetReset := 3 }

/-- Buffer hs full: start 1, contents [4, 3]. -/
def fullHs : Buf := { start := 1, count := 2, sum := 7, sram := [(0, 3), (1, 4)] }

/-- The small block at rest, hs full, the medium holding a block [5, 6] at 2, every storage access acknowledged. -/
def rest : State :=
  let r := State.resetWith small
  { r with bufs := { r.bufs with hs := fullHs }, storage := [(2, 2), (3, 0), (4, 5), (5, 6)],
           env := { r.env with stAck := List.replicate 12 true, pinIn := [true, false, true] } }

/-- `rest` with the command of `i` just accepted and an idle host. -/
def accepted (i : Instr) : State :=
  let s := rest.accept (encode i)
  { s with env := { s.env with host := [] } }

/-- `rest` with host actions to come. -/
def hosted (ops : List HostOp) : State := { rest with env := { rest.env with host := ops } }

/-- A READ that has begun, at an edge that is tick `t`, in a phase, the next sample being `v`. -/
def reading (t : Nat) (p : ReadPhase) (v : Bool) : State :=
  let s := accepted .read
  { s with eng := { s.eng with started := true }, pin := { oe := false, out := true },
           dec := { s.dec with now := t - 1, phase := p, sync := [v], polls := 1 } }

/-! ## One step of each command against the spec's examples -/

/-- 41_decoder.md R122, V0. -/
theorem test_start : (nextOr rest (step (State.reset.withFetchWord 32 1))).readReg 0x08 = 0x00001102 := by decide
/-- 95_test_vectors.md H12: illegal word from reset. -/
theorem test_illegal : (nextOr rest (step (State.reset.withFetchWord 32 9))).readReg 0x08 = 0x00009072 := by decide
/-- 42_ring_buffer.md R151 on a full buffer: [4, 3] and a push of 9 give [3, 9]. -/
theorem test_push_full : ((nextOr rest (exec (.push .hs 9) rest)).buf .hs).logical 2 = [3, 9] ∧
    ((nextOr rest (exec (.push .hs 9) rest)).buf .hs).sum = 12 := by decide +kernel
/-- 95_test_vectors.md B5: with a capacity of 1 every push replaces the sample. -/
theorem test_push_cap_one : ((nextOr rest (exec (.push .ts 9) (nextOr rest (exec (.push .ts 5) rest)))).buf .ts) =
    { start := 0, count := 1, sum := 9, sram := [(0, 9)] } := by decide
theorem test_init : (nextOr rest (exec (.init .hs) rest)).buf .hs = { fullHs with start := 0, count := 0, sum := 0 } := by
  decide
theorem test_at_newest : (nextOr rest (exec (.atIndex .hs 1) rest)).readReg 0x14 = 0x80000003 := by decide
theorem test_at_range : (nextOr rest (exec (.atIndex .hs 2) rest)).readReg 0x08 = 0x00000052 := by decide
theorem test_avg : (nextOr rest (exec (.avg .hs) rest)).readReg 0x14 = 0x80000003 := by decide
theorem test_avg_empty : (nextOr rest (exec (.avg .hl) rest)).readReg 0x14 = 0 ∧
    (nextOr rest (exec (.avg .hl) rest)).regs.err = .ok := by decide
/-- 95_test_vectors.md E9c: off 65535, no wrap-around. -/
theorem test_save_no_wrap : (nextOr rest (exec (.save .hl 0xFFFF)
    (State.resetWith { small with storeSize := 65536 }))).regs.err = .storageBounds := by decide
theorem test_save_block : (after 5 (accepted (.save .hs 4))).storage =
    [(2, 2), (3, 0), (4, 2), (5, 0), (6, 4), (7, 3)] ∧ (after 5 (accepted (.save .hs 4))).readReg 0x14 = 0x80000004 := by
  decide
theorem test_load_clamps : ((after 5 (accepted (.load .ts 2))).buf .ts).logical 1 = [6] ∧
    (after 5 (accepted (.load .ts 2))).readReg 0x14 = 0x80000004 := by decide
theorem test_read_ack_low : (after 4 { accepted .read with env := { (accepted .read).env with
    pinIn := [true, true, true, true] } }).readReg 0x08 = 0x00002712 := by decide
/-- 95_test_vectors.md H3 to H5. -/
theorem test_budget_zero : budgetOf 0 = 1 ∧ budgetOf 0x00010033 = 0x33 ∧ budgetOf 0x00010000 = 1 := by decide
/-- 95_test_vectors.md H7, H8. -/
theorem test_w1c_low_bits_ignored : (nextOr rest (step { hosted [.bus (.write 0x09 2)] with
    regs := { rest.regs with done := true, err := .illegalOp } })).readReg 0x08 = 0x00000070 := by decide
/-- 30_encoding.md R92, R93 and 95_test_vectors.md PG5, as text. -/
theorem test_assemble_text : assembleLine "push hs, 0x32  ; a sample" = some [.bus (.write 0x0C 0x00320004), .wait] ∧
    assembleLine ".word 0x0000_0009" = some [.bus (.write 0x0C 9), .wait] ∧
    assembleLine "wr STATUS, 6" = some [.bus (.write 0x08 6)] ∧ assembleLine "push hs, 256" = none := by decide
theorem test_buffer_digit : assembleLine "init 3" = some [.bus (.write 0x0C 0x33), .wait] ∧
    assembleLine "init 0x1" = none ∧ assembleLine "init 003" = none ∧ assembleLine "init 4" = none := by decide
/-- 10_state.md R29: STATUS in the cycle after a READ's acceptance: LAST_OP 2, DSTATE 2, BUSY. -/
theorem test_release_at_acceptance : (State.reset.accept 2).readReg 0x08 = 0x00002201 := by decide
theorem test_base_range : assembleLine "save_all 65536" = none ∧
    assembleLine "load_all 65535" = some [.chain true .hs 65535] := by decide

/-! ## Witnesses: a case that meets each obligation's hypotheses, clause by clause -/

theorem rest_inv : rest.Inv :=
  ⟨by decide +kernel, by decide +kernel, by decide +kernel, State.transferInv_idle (by decide +kernel) (by decide +kernel)⟩

theorem accepted_save_inv : (accepted (.save .hs 4)).Inv :=
  ⟨by decide +kernel, by decide +kernel, by decide +kernel, State.transferInv_idle (by decide +kernel) (by decide +kernel)⟩

theorem accepted_load_inv : (accepted (.load .tl 2)).Inv :=
  ⟨by decide +kernel, by decide +kernel, by decide +kernel, State.transferInv_idle (by decide +kernel) (by decide +kernel)⟩

theorem witness_DecodeIsTotalByOpcode :
    BufId.code .tl = (0x00000038 : Word).extractLsb' 4 2 ∧
    (0x31 : Word).extractLsb' 0 4 = 0x1 ∧ (0x32 : Word).extractLsb' 0 4 = 0x2 ∧ (0x33 : Word).extractLsb' 0 4 = 0x3 ∧
    (0x34 : Word).extractLsb' 0 4 = 0x4 ∧ (0x35 : Word).extractLsb' 0 4 = 0x5 ∧ (0x36 : Word).extractLsb' 0 4 = 0x6 ∧
    (0x37 : Word).extractLsb' 0 4 = 0x7 ∧ (0x38 : Word).extractLsb' 0 4 = 0x8 ∧ (0x30 : Word).extractLsb' 0 4 = 0x0 ∧
    9 ≤ ((0x39 : Word).extractLsb' 0 4).toNat ∧ 9 ≤ ((0x3F : Word).extractLsb' 0 4).toNat := by decide

theorem witness_IgnoredBitsDoNotChangeTheCommand :
    ((0x00320004 : Word).extractLsb' 0 4 = (0x0032FFC4 : Word).extractLsb' 0 4 ∧
      (0x00320004 : Word).extractLsb' 4 2 = (0x0032FFC4 : Word).extractLsb' 4 2 ∧
      (0x00320004 : Word).extractLsb' 16 16 = (0x0032FFC4 : Word).extractLsb' 16 16) ∧
    ((0x00320004 : Word).extractLsb' 0 4 = 0x4 ∧
      (0x00320004 : Word).extractLsb' 16 8 = (0xAB320004 : Word).extractLsb' 16 8) ∧
    ((0x00000013 : Word).extractLsb' 0 4 = 0x3 ∧ (0x00000016 : Word).extractLsb' 0 4 = 0x6 ∧
      (0x00000013 : Word).extractLsb' 4 2 = (0xFFFF0013 : Word).extractLsb' 4 2) ∧
    (0x00000001 : Word).extractLsb' 0 4 = (0xFFFFFFF1 : Word).extractLsb' 0 4 := by decide

theorem witness_StepRunsTheCommandInProgress :
    (rest.noMove = none ∧ rest.resetNow = false ∧ rest.regs.busy = false) ∧
    ((accepted .start).noMove = none ∧ (accepted .start).resetNow = false ∧ (accepted .start).regs.busy = true ∧
      decode (accepted .start).eng.cmd = .instr .start) ∧
    ((rest.accept 9).noMove = none ∧ (rest.accept 9).regs.busy = true ∧ decode (rest.accept 9).eng.cmd = .illegal 9) := by
  decide

theorem witness_CommandWriteIsAccepted :
    let s := hosted [.bus (.write 0x0F 2)]
    let t := nextOr s (step s)
    (s.noMove = none ∧ s.writesNow 3 = some 2 ∧ s.resetNow = false ∧ s.regs.busy = false) ∧
    (decode 2 = .instr .read ∧ t.noMove = none ∧ t.resetNow = false) := by decide

theorem witness_CommandWriteWhileBusyIsDropped :
    let s := { accepted .start with env := { rest.env with host := [.bus (.write 0x0C 4)] } }
    s.env.host = [.bus (.write 0x0C 4)] ∧ (0x0C : BitVec 7).extractLsb' 2 5 = 3 ∧ s.regs.busy = true ∧
    ∃ t, step { s with env := { s.env with host := [.delay 1] } } = .next t :=
  ⟨by decide, by decide, by decide, _, rfl⟩

theorem witness_ReadAccessHasNoSideEffect :
    (hosted [.bus (.read 0x7F)]).env.host = [.bus (.read 0x7F)] ∧ ∃ t, step (hosted [.delay 1]) = .next t :=
  ⟨by decide, _, rfl⟩

theorem witness_SettingWinsOverClearing :
    (let s := { accepted .start with env := { rest.env with host := [.bus (.write 0x08 6)] } }
     (∃ t, step s = .next t) ∧ s.resetNow = false ∧ s.clearsNow 1 = true ∧ s.regs.busy = true ∧
      (nextOr s (step s)).regs.busy = false ∧ (nextOr s (step s)).regs.done = true) ∧
    (let s := { accepted .read with env := { rest.env with host := [.bus (.write 0x0C 4)] } }
     (∃ t, step s = .next t) ∧ (s.writesNow 3).isSome = true ∧ (nextOr s (step s)).regs.drop = true) :=
  ⟨⟨⟨_, rfl⟩, by decide, by decide, by decide, by decide, by decide⟩, ⟨_, rfl⟩, by decide, by decide⟩

theorem witness_PollBudgetWriteStoresLegalValue :
    (let s := hosted [.bus (.write 0x10 0x00010000)]
     (∃ t, step s = .next t) ∧ s.resetNow = false ∧ s.writesNow 4 = some 0x00010000 ∧
      (nextOr s (step s)).regs.budget = 1) ∧
    (let s := { accepted .read with env := { rest.env with host := [.bus (.write 0x13 0xFFFF)] } }
     (∃ t, step s = .next t) ∧ s.writesNow 4 = some 0xFFFF ∧ (nextOr s (step s)).dec.budget = 3) :=
  ⟨⟨⟨_, rfl⟩, by decide, by decide, by decide⟩, ⟨_, rfl⟩, by decide, by decide⟩

theorem witness_InterruptFollowsDoneAndEnable :
    let s := { hosted [.bus (.write 0x04 1)] with regs := { rest.regs with done := true } }
    (∃ t, step s = .next t) ∧ s.resetNow = false ∧ s.writesNow 1 = some 1 ∧ (nextOr s (step s)).irq = true ∧
    (∃ t, step rest = .next t) ∧ rest.resetNow = false ∧ rest.writesNow 1 = none :=
  ⟨⟨_, rfl⟩, by decide, by decide, by decide, ⟨_, rfl⟩, by decide, by decide⟩

theorem witness_StatusRegisterLayout :
    (0x08 : BitVec 7).extractLsb' 2 5 = 2 ∧ (0x0B : BitVec 7).extractLsb' 2 5 = 2 := by decide

theorem witness_ResultAndFrameRegisterLayout :
    (0x13 : BitVec 7).extractLsb' 2 5 = 4 ∧ (0x14 : BitVec 7).extractLsb' 2 5 = 5 ∧
    (0x1B : BitVec 7).extractLsb' 2 5 = 6 ∧ (0x1C : BitVec 7).extractLsb' 2 5 = 7 ∧
    (0x23 : BitVec 7).extractLsb' 2 5 = 8 := by decide

theorem witness_IdentityAndBufferRegisters :
    rest.params.WellFormed ∧ (0x2C : BitVec 7).extractLsb' 2 5 = 11 ∧ 20 ≤ ((0x50 : BitVec 7).extractLsb' 2 5).toNat ∧
    20 ≤ ((0x7F : BitVec 7).extractLsb' 2 5).toNat ∧ rest.readReg 0x30 = 0x00010002 ∧ rest.readReg 0x34 = 7 := by decide

theorem witness_WriteToReadOnlyIsIgnored :
    (hosted [.bus (.write 0x03 7)]).env.host = [.bus (.write 0x03 7)] ∧ (0x03 : BitVec 7).extractLsb' 2 5 = 0 ∧
    5 ≤ ((0x14 : BitVec 7).extractLsb' 2 5).toNat ∧ 5 ≤ ((0x7F : BitVec 7).extractLsb' 2 5).toNat := by decide

theorem witness_WriteToReadOnlyIsIgnored_writable :
    (0x07 : BitVec 7).extractLsb' 2 5 = 1 ∧ (0x08 : BitVec 7).extractLsb' 2 5 = 2 ∧
    (0x10 : BitVec 7).extractLsb' 2 5 = 4 ∧
    (let s := { accepted .start with env := { rest.env with host := [.bus (.write 0x08 6)] } }
     ∃ t, step { s with env := { s.env with host := .delay 1 :: [] } } = .next t) ∧
    (let s := hosted [.bus (.write 0x10 0)]
     ∃ t, step { s with env := { s.env with host := .delay 1 :: [] } } = .next t) :=
  ⟨by decide, by decide, by decide, ⟨_, rfl⟩, _, rfl⟩

theorem witness_IllegalCommandCompletes :
    ((rest.accept 0).noMove = none ∧ (rest.accept 0).resetNow = false ∧ (rest.accept 0).regs.busy = true ∧
      (rest.accept 0).eng.cmd.extractLsb' 0 4 = 0x0) ∧
    (9 ≤ ((rest.accept 9).eng.cmd.extractLsb' 0 4).toNat) ∧ 9 ≤ ((rest.accept 15).eng.cmd.extractLsb' 0 4).toNat := by
  decide

theorem witness_IllegalCommandKeepsStorage : ∀ a, (rest.accept 0).env.host.head? ≠ some (.medium a) :=
  fun _ h => by cases h

theorem witness_HostRegistersDoNotReachTheCommand : (∃ t, exec .start rest = .next t) ∧
    (∃ t, exec .read rest = .next t) ∧ (∃ t, exec (.save .hs 0) rest = .next t) :=
  ⟨⟨_, rfl⟩, ⟨_, rfl⟩, _, rfl⟩

theorem witness_IdleBlockStaysAsItIs : (∃ t, step rest = .next t) ∧ rest.resetNow = false ∧ rest.regs.busy = false ∧
    rest.writesNow 3 = none ∧ rest.writesNow 1 = none ∧ rest.writesNow 2 = none ∧ rest.writesNow 4 = none ∧
    rest.env.host.head? ≠ some (.medium (BitVec.ofNat 16 2)) :=
  ⟨⟨_, rfl⟩, by decide, by decide, by decide, by decide, by decide, by decide, fun h => by cases h⟩

theorem witness_ResetEdgeEndsEverything :
    let s := { after 2 (accepted (.save .hs 4)) with env := { rest.env with host := [.reset (some (.read 0x10))] } }
    s.params.WellFormed ∧ s.env.host = [.reset (some (.read 0x10))] ∧ s.port.req = true ∧ s.port.addr = 5 ∧
    (nextOr s (step s)).regs.busRdata = some 3 := by decide

theorem witness_StartDrivesTheBusLow : Params.reference.WellFormed ∧ small.WellFormed := by decide

theorem witness_ReadBeginsAtTickZero : (accepted .read).eng.started = false := by decide

theorem witness_TimeBaseCountsTicks :
    let s := reading 1 .release true
    (s.eng.started = true ∧ (∀ e, s.dec.phase ≠ .finish e) ∧ s.params.cycPerUs ≤ s.dec.presc + 1) ∧
    (let u := { s with params := { small with cycPerUs := 2 } }
     u.eng.started = true ∧ (∀ e, u.dec.phase ≠ .finish e) ∧ u.dec.presc + 1 < u.params.cycPerUs) :=
  ⟨⟨by decide, fun _ => ReadPhase.noConfusion, by decide⟩, by decide, fun _ => ReadPhase.noConfusion, by decide⟩

theorem witness_HandshakeAtItsTicks :
    (let s := reading 1 .release true; s.atTick s.params.p1 ∧ s.dec.phase = .release) ∧
    (let s := reading 2 .input true; s.atTick s.params.p2 ∧ s.dec.phase = .input ∧ s.sample = true) ∧
    (let s := reading 2 .input false; s.atTick s.params.p2 ∧ s.dec.phase = .input ∧ s.sample = false) ∧
    (let s := reading 3 .ackLow false; s.atTick s.params.p3 ∧ s.dec.phase = .ackLow ∧ s.sample = false) ∧
    (let s := reading 3 .ackLow true; s.atTick s.params.p3 ∧ s.dec.phase = .ackLow ∧ s.sample = true) ∧
    (let s := reading 4 .ackHigh true; s.atTick s.params.p4 ∧ s.dec.phase = .ackHigh ∧ s.sample = true) ∧
    (let s := reading 4 .ackHigh false; s.atTick s.params.p4 ∧ s.dec.phase = .ackHigh ∧ s.sample = false) := by decide

/-- The last tick before each of P1 to P4, the release phase with `T_REL_HIGH = 2`. -/
theorem witness_HandshakeAtItsTicks_earlier :
    (let s := { reading 1 .release true with params := { small with tRelHigh := 2 } }
     s.atTick 1 ∧ s.dec.phase = .release ∧ 1 < s.params.p1) ∧
    (let s := reading 1 .input true; s.atTick 1 ∧ s.dec.phase = .input ∧ 1 < s.params.p2) ∧
    (let s := reading 2 .ackLow false; s.atTick 2 ∧ s.dec.phase = .ackLow ∧ 2 < s.params.p3) ∧
    (let s := reading 3 .ackHigh false; s.atTick 3 ∧ s.dec.phase = .ackHigh ∧ 3 < s.params.p4) := by decide

theorem witness_BitPhasesPollByPoll :
    (let s := reading 9 .low true; s.atTick 9 ∧ s.dec.phase = .low ∧ s.sample = true) ∧
    (let s := reading 9 .low false; s.atTick 9 ∧ s.dec.phase = .low ∧ s.sample = false) ∧
    (let s := reading 9 (.settle 9) true; s.atTick 9 ∧ s.dec.phase = .settle 9 ∧ s.sample = true) ∧
    (let s := reading 9 (.settle 9) false; s.atTick 9 ∧ s.dec.phase = .settle 9 ∧ s.dec.bit < 39) ∧
    (let s := reading 9 (.settle 10) false; s.atTick 9 ∧ s.dec.phase = .settle 10) ∧
    (let s := reading 9 .high true; s.atTick 9 ∧ s.dec.phase = .high ∧ s.sample = true) ∧
    (let s := reading 9 .high false; s.atTick 9 ∧ s.dec.phase = .high ∧ s.sample = false ∧ s.dec.bit < 39) := by decide

theorem witness_ChecksumDecidesAfterBit39 :
    (let s := { reading 9 .high false with dec := { (reading 9 .high false).dec with bit := 39 } }
     s.atTick 9 ∧ s.dec.bit = 39 ∧ s.sample = false ∧ s.dec.phase = .high) ∧
    (let s := { reading 9 (.settle 9) false with dec := { (reading 9 (.settle 9) false).dec with bit := 39 } }
     s.atTick 9 ∧ s.dec.bit = 39 ∧ s.sample = false ∧ s.dec.phase = .settle 9) := by decide

theorem witness_ReadFinishes :
    ((reading 9 (.finish .ok) false).eng.started = true ∧ (reading 9 (.finish .ok) false).dec.phase = .finish .ok) ∧
    (reading 9 (.finish .checksum) false).dec.phase = .finish .checksum := by decide

theorem witness_ReadAgreesWithThePseudocode :
    let s := accepted .read
    s.params.WellFormed ∧ s.justAccepted .read ∧ s.dec.budget ≠ 0 ∧ s.dec.sync.length = s.params.syncStages := by decide

theorem witness_ReadAlwaysCompletes :
    let s := { accepted .read with params := { small with cycPerUs := 2, syncStages := 1 } }
    s.params.WellFormed ∧ s.justAccepted .read ∧ s.dec.budget ≠ 0 ∧ s.dec.sync.length = s.params.syncStages := by decide

theorem witness_ReadDurationIsBounded :
    (readOutcome small 1 fun _ => true).err = .noAckLow ∧ (readOutcome small 1 fun _ => false).err = .noAckHigh := by
  decide

theorem witness_BudgetOneAlwaysTimesOut :
    (fun t => decide (t = 3)) small.p2 = false ∧ (fun t => decide (t = 3)) small.p3 = true := by decide

theorem witness_FrameHoldsBitsInOrder : (0 ≤ 40 ∧ 0 < 40) ∧ (40 ≤ 40 ∧ 39 < 40) := by decide

theorem witness_ChecksumCatchesOneByte :
    let f : Frame := { humInt := 0x32, humFrac := 0, tempInt := 0x18, tempFrac := 0, check := 0x4A }
    f.sumOk = true ∧ 0x33 ≠ f.humInt ∧ 0x33 ≠ f.humFrac ∧ 0x33 ≠ f.tempInt ∧ 0x33 ≠ f.tempFrac ∧ 0x33 ≠ f.check := by
  decide

theorem witness_CommandsLeaveTheRest : (∃ t, exec (.push .hs 1) rest = .next t) ∧
    (∃ t, exec (.load .hs 2) (after 2 (accepted (.load .hs 2))) = .next t) ∧
    writtenBuffer (.push .hs 1) ≠ some .hl ∧ writtenBuffer (.avg .hs) ≠ some .hs :=
  ⟨⟨_, rfl⟩, ⟨_, rfl⟩, by decide, by decide⟩

theorem witness_CommandsLeaveOtherBytes :
    (∃ t, exec (.save .hs 4) (after 2 (accepted (.save .hs 4))) = .next t) ∧
    (after 2 (accepted (.save .hs 4))).port.addr = 5 ∧ 6 ≠ (after 2 (accepted (.save .hs 4))).port.addr.toNat ∧
    0 ≠ (rest.buf .hs).slot (rest.cap .hs) (rest.buf .hs).count.toNat :=
  ⟨⟨_, rfl⟩, by decide, by decide, by decide⟩

theorem witness_PushAppendsAndEvictsOldest :
    ((rest.buf .hs).Inv (rest.cap .hs) ∧ 1 ≤ rest.cap .hs ∧ rest.cap .hs ≤ 65535 ∧
      (rest.buf .hs).count.toNat = rest.cap .hs) ∧
    ((rest.buf .ts).Inv (rest.cap .ts) ∧ (rest.buf .ts).count.toNat < rest.cap .ts) := by decide +kernel

theorem witness_AtReadsTheLogicalIndex :
    (rest.buf .hs).Inv (rest.cap .hs) ∧ (rest.buf .hs).count.toNat ≤ (2 : Half).toNat ∧
    (1 : Half).toNat < (rest.buf .hs).count.toNat := by decide +kernel

theorem witness_AvgDividesTheSum :
    ((rest.buf .hs).Inv (rest.cap .hs) ∧ (rest.buf .hs).count ≠ 0) ∧
    ((rest.buf .hl).Inv (rest.cap .hl) ∧ (rest.buf .hl).count = 0) := by decide +kernel

theorem witness_BufferWidthsNeverOverflow : fullHs.Inv 2 ∧ 2 ≤ 65535 ∧ 0 < fullHs.count.toNat := by decide +kernel

theorem witness_PushesKeepTheLatest : 1 ≤ 1 ∧ 1 ≤ 65535 ∧ (fullHs.clear.pushAll 1 [1, 2]).logical 1 = [2] := by decide +kernel

theorem witness_StorageAccessWaitsForAck :
    (let s := { after 2 (accepted (.save .hs 4)) with env := { rest.env with stAck := [false] } }
     s.eng.started = true ∧ s.port.req = true ∧ s.ackNow = false) ∧
    ({ rest with eng := { rest.eng with started := true } } : State).port.req = false := by decide

theorem witness_SaveTestsBoundsFirst :
    rest.eng.started = false ∧ rest.params.storeSize < (5 : Half).toNat + 2 + (rest.buf .hs).count.toNat ∧
    (4 : Half).toNat + 2 + (rest.buf .hs).count.toNat ≤ rest.params.storeSize := by decide

theorem witness_SaveStoresOneByteAnAck :
    (let s := after 1 (accepted (.save .hs 4))
     s.acknowledged ∧ s.port.we = true ∧ s.eng.idx + 1 = 1) ∧
    (let s := after 3 (accepted (.save .hs 4))
     s.acknowledged ∧ s.port.we = true ∧ s.eng.idx + 1 = 3 ∧ s.eng.idx + 1 < (s.buf .hs).count.toNat + 2 ∧
      ((s.buf .hs).cells (s.cap .hs))[s.eng.idx - 1]? = some (some 3)) ∧
    (let s := after 4 (accepted (.save .hs 4))
     s.acknowledged ∧ s.port.we = true ∧ (s.buf .hs).count.toNat + 2 ≤ s.eng.idx + 1) := by decide

theorem witness_SaveWritesThePersistedBlock :
    let s := accepted (.save .hs 4)
    s.Inv ∧ s.justAccepted (.save .hs 4) ∧ (4 : Half).toNat + 2 + (s.buf .hs).count.toNat ≤ s.params.storeSize ∧
    ∀ k, k ≤ (s.buf .hs).count.toNat + 2 → s.ackAt k = true :=
  ⟨accepted_save_inv, by decide, by decide, by decide⟩

theorem witness_LoadEmptiesThenTestsBounds :
    rest.eng.started = false ∧ rest.params.storeSize < (7 : Half).toNat + 2 ∧
    (6 : Half).toNat + 2 ≤ rest.params.storeSize := by decide

theorem witness_LoadPushesOneByteAnAck :
    (let s := after 1 (accepted (.load .tl 2))
     s.acknowledged ∧ s.port.we = false ∧ 2 = s.storageRead s.port.addr.toNat ∧ s.eng.idx = 0) ∧
    (let s := after 2 (accepted (.load .tl 2))
     s.acknowledged ∧ s.port.we = false ∧ 0 = s.storageRead s.port.addr.toNat ∧ s.eng.idx = 1 ∧
      (2 : Half).toNat + 2 + (0#8 ++ s.eng.len.extractLsb' 0 8).toNat ≤ s.params.storeSize ∧
      (0#8 ++ s.eng.len.extractLsb' 0 8 : Half) ≠ 0) ∧
    (let s := after 2 (accepted (.load .tl 4))
     s.acknowledged ∧ s.port.we = false ∧ 6 = s.storageRead s.port.addr.toNat ∧ s.eng.idx = 1 ∧
      s.params.storeSize < (4 : Half).toNat + 2 + (6#8 ++ s.eng.len.extractLsb' 0 8).toNat) ∧
    (let s := after 2 { accepted (.load .tl 2) with storage := [(2, 0), (3, 0)] }
     s.acknowledged ∧ s.port.we = false ∧ 0 = s.storageRead s.port.addr.toNat ∧ s.eng.idx = 1 ∧
      (0#8 ++ s.eng.len.extractLsb' 0 8 : Half) = 0) ∧
    (let s := after 3 (accepted (.load .tl 2))
     s.acknowledged ∧ s.port.we = false ∧ 5 = s.storageRead s.port.addr.toNat ∧ 2 ≤ s.eng.idx ∧
      s.eng.idx + 1 < s.eng.len.toNat + 2) ∧
    (let s := after 4 (accepted (.load .tl 2))
     s.acknowledged ∧ s.port.we = false ∧ 6 = s.storageRead s.port.addr.toNat ∧ 2 ≤ s.eng.idx ∧
      s.eng.len.toNat + 2 ≤ s.eng.idx + 1) := by decide

/-- The byte read is one nothing has written. -/
theorem witness_LoadPushesOneByteAnAck_draw :
    let s := after 1 { accepted (.load .tl 2) with storage := [] }
    s.acknowledged ∧ s.port.we = false ∧ Memory.read s.storage s.port.addr.toNat = none ∧
    (Config.storageByte 2 s.env.cycle) = s.storageRead s.port.addr.toNat := ⟨by decide, by decide, by decide, rfl⟩

theorem witness_LoadRestoresThePersistedBlock :
    let s := accepted (.load .tl 2)
    s.Inv ∧ s.justAccepted (.load .tl 2) ∧ [5#8, 6#8].length ≤ 65535 ∧
    (2 : Half).toNat + 2 + [5#8, 6#8].length ≤ s.params.storeSize ∧
    (∀ j (h : j < (persistedBlock [5#8, 6#8]).length),
      s.byteAt (j + 1) ((2 : Half).toNat + j) = (persistedBlock [5#8, 6#8])[j]) ∧
    ∀ k, k ≤ [5#8, 6#8].length + 2 → s.ackAt k = true :=
  ⟨accepted_load_inv, by decide, by decide, by decide, by decide, by decide⟩

/-- A block whose one sample nothing has written. -/
theorem witness_LoadRestoresThePersistedBlock_draw :
    let s := { accepted (.load .tl 2) with storage := [(2, 1), (3, 0)] }
    let vs := [Config.storageByte 4 (s.env.cycle + 3)]
    s.Inv ∧ s.justAccepted (.load .tl 2) ∧ vs.length ≤ 65535 ∧ (2 : Half).toNat + 2 + vs.length ≤ s.params.storeSize ∧
    (∀ j (h : j < (persistedBlock vs).length), s.byteAt (j + 1) ((2 : Half).toNat + j) = (persistedBlock vs)[j]) ∧
    ∀ k, k ≤ vs.length + 2 → s.ackAt k = true :=
  ⟨⟨by decide +kernel, by decide +kernel, by decide +kernel,
    State.transferInv_idle (by decide +kernel) (by decide +kernel)⟩, by decide, by decide, by decide,
   fun j h => match j, h with
    | 0, _ => rfl
    | 1, _ => rfl
    | 2, _ => rfl, by decide⟩

/-- The end of a SAVE of hs at 4, and then a LOAD of tl from there. -/
def saved : State := after 5 (accepted (.save .hs 4))
def reloading : State :=
  let u := saved.accept (encode (.load .tl 4))
  { u with env := { u.env with host := [] } }

theorem reloading_inv : reloading.Inv :=
  ⟨by decide +kernel, by decide +kernel, by decide +kernel, State.transferInv_idle (by decide +kernel) (by decide +kernel)⟩

theorem witness_SaveThenLoadRoundTrip :
    let s := accepted (.save .hs 4)
    s.Inv ∧ s.justAccepted (.save .hs 4) ∧ (4 : Half).toNat + 2 + (s.buf .hs).count.toNat ≤ s.params.storeSize ∧
    (∀ k, k ≤ (s.buf .hs).count.toNat + 2 → s.ackAt k = true) ∧
    Host.Core.run Sys2Proof.core ((s.buf .hs).count.toNat + 3) s = .next saved ∧
    reloading.Inv ∧ reloading.justAccepted (.load .tl 4) ∧ reloading.params = s.params ∧
    (s.buf .hs).count.toNat ≤ s.cap .tl ∧
    (∀ a, (4 : Half).toNat ≤ a → a < (4 : Half).toNat + 2 + (s.buf .hs).count.toNat →
      Memory.read reloading.storage a = Memory.read saved.storage a) ∧
    (∀ k, k ≤ (s.buf .hs).count.toNat + 2 → reloading.ackAt k = true) :=
  ⟨accepted_save_inv, by decide, by decide, by decide, rfl, reloading_inv, by decide, by decide, by decide,
    fun _ _ _ => rfl, by decide⟩

theorem witness_StorageIsExclusiveDuringTransfer :
    let s := { accepted (.save .hs 4) with env := { rest.env with host := [.medium 7] } }
    s.params.WellFormed ∧ s.env.host = [.medium 7] ∧ s.regs.busy = true ∧
      decode s.eng.cmd = .instr (.save .hs 4) := by decide

theorem witness_StorageIsExclusiveDuringTransfer_load :
    let s := { accepted (.load .hs 2) with env := { rest.env with host := [.medium 0] } }
    s.params.WellFormed ∧ s.env.host = [.medium 0] ∧ s.regs.busy = true ∧
      decode s.eng.cmd = .instr (.load .hs 2) := by decide

theorem witness_StorageIsExclusiveDuringTransfer_between :
    let s := hosted [.medium 7]
    s.params.WellFormed ∧ s.env.host = [.medium 7] ∧ s.regs.busy = false ∧
      (7 : Half).toNat < s.params.storeSize := by decide

theorem witness_HostWaitsForCompletion :
    (∃ t, step (hosted [.wait]) = .next t) ∧
    (∃ t, step { accepted .start with env := { rest.env with host := [.wait] } } = .next t) :=
  ⟨⟨_, rfl⟩, _, rfl⟩

theorem witness_PseudoInstructionsFollowWhatTheyRead :
    (∃ t, step (hosted [.pushReading]) = .next t) ∧ (∃ t, step (hosted [.chainNext true .hs 3]) = .next t) ∧
    (∃ t, step (hosted [.chainNext false .tl 3]) = .next t) ∧ (∃ t, step (hosted [.chain false .hs 65535]) = .next t) ∧
    (∃ t, step (hosted [.chain true .tl 0]) = .next t) :=
  ⟨⟨_, rfl⟩, ⟨_, rfl⟩, ⟨_, rfl⟩, ⟨_, rfl⟩, _, rfl⟩

theorem witness_EveryStepKeepsTheInvariant : rest.Inv ∧ ∃ t, step rest = .next t := ⟨rest_inv, _, rfl⟩

theorem witness_InvariantHoldsAtReset : Params.reference.WellFormed ∧ small.WellFormed := by decide

theorem witness_DecoderInvariantHoldsAtReset : Params.reference.WellFormed ∧ small.WellFormed := by decide

theorem witness_NoAccessBeyondTheMedium :
    let s := after 2 (accepted (.save .hs 4))
    s.Inv ∧ s.port.req = true :=
  ⟨⟨by decide +kernel, by decide +kernel, by decide +kernel,
    (State.transferInv_save (b := .hs) (off := 4) (by decide +kernel) (by decide +kernel) (by decide +kernel)).mpr (by decide +kernel)⟩, by decide +kernel⟩

theorem witness_EveryStepKeepsTheDecoderInvariant :
    rest.params.WellFormed ∧ rest.DecoderInv ∧ ∃ t, step rest = .next t :=
  ⟨by decide, State.decoderInv_idle (by decide) (by decide) (by decide) (by decide) (by decide), _, rfl⟩

theorem witness_ParametersAreFixed : (∃ t, step rest = .next t) ∧ ¬({ small with cap2 := 0 } : Params).WellFormed :=
  ⟨⟨_, rfl⟩, by decide⟩

theorem witness_ReadShowsReleaseByTickZero :
    (let s := hosted [.bus (.write 0x0C 2)]
     s.noMove = none ∧ s.writesNow 3 = some 2 ∧ s.resetNow = false ∧ s.regs.busy = false ∧
      (2 : Word).extractLsb' 0 4 = 0x2 ∧ (nextOr s (step s)).noMove = none ∧ (nextOr s (step s)).resetNow = false) ∧
    (let s := hosted [.bus (.write 0x0C 1)]
     s.noMove = none ∧ s.writesNow 3 = some 1 ∧ s.resetNow = false ∧ s.regs.busy = false ∧
      (1 : Word).extractLsb' 0 4 ≠ 0x2) := by decide

end Sys2Proof.Tests
end

section
/-! The parameters of the block (spec/00_scope.md R7) are kept by everything an edge is made of: the bus and the other
agents, the reset edge, and the engine step of each command. `step` only composes these. -/

namespace Sys2Proof.Machine

/-! ## The host and the reset edge -/

/-- An outcome mapped by `onNext` goes on only if the outcome itself did. -/
theorem onNext_next {f : State → State} {o : Host.Outcome State Fault Refusal} {t : State}
    (h : onNext f o = .next t) : ∃ u, o = .next u ∧ t = f u := by
  cases o with
  | next u => exact ⟨u, rfl, by injection h with h; exact h.symm⟩
  | fault r => cases h
  | refused r => cases h

@[simp] theorem State.busEdge_params (s : State) (a : Option Access) : (s.busEdge a).params = s.params :=
  (s.busEdge_frame a).1

@[simp] theorem State.hostEdge_params (s : State) : s.hostEdge.params = s.params := by
  unfold State.hostEdge
  split
  · exact s.busEdge_params s.accessNow
  · exact s.busEdge_params s.accessNow

@[simp] theorem State.resetEdge_params (s : State) : s.resetEdge.params = s.params := rfl

@[simp] theorem State.execIllegal_params (s : State) : s.execIllegal.params = s.params := rfl

/-! ## The steps of the commands that take several edges -/

@[simp] theorem State.readBegin_params (s : State) : s.readBegin.params = s.params := rfl

/-- The prescaler counts, or a tick of READ is made, of which `State.readTick_frame` says what it leaves. -/
@[simp] theorem State.readClock_params (s : State) : s.readClock.params = s.params := by
  unfold State.readClock
  split
  · rfl
  · exact (State.readTick_frame _ _).1

@[simp] theorem State.readFinish_params (s : State) (e : Err) : (s.readFinish e).params = s.params := by
  unfold State.readFinish
  split <;> rfl

@[simp] theorem State.pushStep_params (s : State) (b : BufId) (v : Byte) : (s.pushStep b v).params = s.params := rfl

@[simp] theorem State.saveNext_params (s : State) (b : BufId) (off : Half) :
    (s.saveNext b off).params = s.params := by
  unfold State.saveNext
  dsimp only
  split <;> rfl

@[simp] theorem State.loadNext_params (s : State) (b : BufId) (off : Half) (x : Byte) :
    (s.loadNext b off x).params = s.params := by
  unfold State.loadNext
  split
  · rfl
  · dsimp only
    split
    · rfl
    · split <;> rfl
  · dsimp only
    split <;> rfl

/-- A storage edge keeps the parameters if what goes on after the access does. -/
theorem State.storageAccess_params {s t : State} {k : Byte → State → State}
    (hk : ∀ x u, (k x u).params = u.params) (h : s.storageAccess k = .next t) : t.params = s.params := by
  obtain ⟨-, rfl⟩ | ⟨-, -, -, rfl⟩ := State.storageAccess_next h
  · rfl
  · rw [hk, State.performAccess_params]

/-! ## The engine step of each command -/

theorem execRead_params {s t : State} (h : execRead s = .next t) : t.params = s.params := by
  unfold execRead at h
  injection h with h
  subst h
  split
  · split
    · exact s.readFinish_params _
    · exact s.readClock_params
  · exact s.readBegin_params

theorem execAtIndex_params {b : BufId} {k : Half} {s t : State} (h : execAtIndex b k s = .next t) :
    t.params = s.params := by
  unfold execAtIndex at h
  injection h with h
  subst h
  split <;> rfl

theorem execAvg_params {b : BufId} {s t : State} (h : execAvg b s = .next t) : t.params = s.params := by
  unfold execAvg at h
  injection h with h
  subst h
  split <;> rfl

theorem execSave_params {b : BufId} {off : Half} {s t : State} (h : execSave b off s = .next t) :
    t.params = s.params := by
  unfold execSave at h
  split at h
  · exact State.storageAccess_params (fun _ u => u.saveNext_params b off) h
  · split at h <;> (injection h with h; subst h; rfl)

theorem execLoad_params {b : BufId} {off : Half} {s t : State} (h : execLoad b off s = .next t) :
    t.params = s.params := by
  unfold execLoad at h
  split at h
  · exact State.storageAccess_params (fun x u => u.loadNext_params b off x) h
  · dsimp only at h
    split at h <;> (injection h with h; subst h; rfl)

/-- No command changes a parameter. START, INIT and PUSH have one way on, which writes other parts of the state. -/
theorem exec_params {i : Instr} {s t : State} (h : exec i s = .next t) : t.params = s.params := by
  cases i with
  | start => injection h with h; subst h; rfl
  | read => exact execRead_params h
  | init b => injection h with h; subst h; rfl
  | push b x => injection h with h; subst h; rfl
  | atIndex b k => exact execAtIndex_params h
  | avg b => exact execAvg_params h
  | save b off => exact execSave_params h
  | load b off => exact execLoad_params h

/-! ## The clock edge -/

/-- Every step that answers a next state keeps the parameters (00_scope.md R7). -/
theorem step_params {s t : State} (h : step s = .next t) : t.params = s.params := by
  obtain ⟨r, -, hs⟩ | ⟨-, -, hs⟩ | ⟨-, -, -, hs⟩ | ⟨-, -, -, i, -, hs⟩ | ⟨-, -, -, op, -, hs⟩ := step_cases s
  all_goals rw [hs] at h
  case inl => cases h
  case inr.inl =>
    injection h with h
    rw [← h, State.resetEdge_params]
  case inr.inr.inl =>
    injection h with h
    rw [← h, closeEdge_params, State.hostEdge_params]
  case inr.inr.inr.inl =>
    obtain ⟨u, hu, rfl⟩ := onNext_next h
    rw [closeEdge_params, exec_params hu, State.hostEdge_params]
  case inr.inr.inr.inr =>
    injection h with h
    rw [← h, closeEdge_params, State.execIllegal_params, State.hostEdge_params]

theorem State.noMove_of_not_wellFormed {s : State} (h : ¬ s.params.WellFormed) :
    s.noMove = some .parametersOutOfRange := by
  rw [State.noMove, if_neg h]

theorem step_of_noMove {s : State} {r : Refusal} (h : s.noMove = some r) : step s = .refused r := by
  rw [step, h]

/-- Settles O59: each of the five kinds of step keeps the parameters (`step_params`), and the test of the parameters
comes before all else in `State.noMove`. -/
theorem parametersAreFixed : Obligations.ParametersAreFixed :=
  ⟨fun _ _ h => step_params h, fun _ h => step_of_noMove (State.noMove_of_not_wellFormed h)⟩

end Sys2Proof.Machine
end

section
/-! A push on one sample buffer (spec/42_ring_buffer.md R151): which cells, and so which logical contents, it leaves,
and that the buffer's invariant (10_state.md R41) survives it. INIT and the reset leave an empty buffer. -/

namespace Sys2Proof.Machine

/-! ## Slots and cells -/

/-- Two logical indices less than a capacity apart have different slots. -/
theorem Buf.slot_ne (x : Buf) {cap i j : Nat} (hij : i < j) (hj : j < i + cap) : x.slot cap i ≠ x.slot cap j := by
  intro h
  have hmod : (j - i) % cap = 0 := by
    have := Nat.sub_mod_eq_zero_of_mod_eq h.symm
    rwa [Nat.add_sub_add_left] at this
  rw [Nat.mod_eq_of_lt (by omega)] at hmod
  omega

theorem Buf.slot_lt (x : Buf) {cap : Nat} (hcap : 0 < cap) (i : Nat) : x.slot cap i < cap := Nat.mod_lt _ hcap

theorem Buf.slot_zero {x : Buf} {cap : Nat} (h : x.start.toNat < cap) : x.slot cap 0 = x.start.toNat :=
  Nat.mod_eq_of_lt h

theorem Buf.full_iff (x : Buf) (cap : Nat) : x.full cap = true ↔ x.count.toNat = cap := beq_iff_eq

theorem Buf.cells_of_empty {x : Buf} {cap : Nat} (h : x.count = 0) : x.cells cap = [] := by
  simp [Buf.cells, h]

/-- The readable slots of a buffer that meets the invariant are written. -/
theorem Buf.Inv.read_isSome {x : Buf} {cap i : Nat} (hx : x.Inv cap) (hi : i < x.count.toNat) :
    (Memory.read x.sram (x.slot cap i)).isSome = true := by
  obtain ⟨-, -, -, hsome, -, -⟩ := hx
  exact hsome _ (List.mem_map.mpr ⟨i, List.mem_range.mpr hi, rfl⟩)

/-- A write to the slot of index `n` leaves the cells of the indices from `n - cap` on, `n` apart. -/
theorem Buf.read_write_slot (x : Buf) {cap i n : Nat} (hi : i < n) (hn : n < i + cap) (v : Byte) :
    Memory.read (Memory.write x.sram (x.slot cap n) v) (x.slot cap i) = Memory.read x.sram (x.slot cap i) :=
  Memory.read_write_other _ (x.slot_ne hi hn) v

/-! ## The cells after a push -/

theorem Buf.push_of_not_full {x : Buf} {cap : Nat} (h : x.count.toNat < cap) (old v : Byte) :
    x.push cap old v =
      { start := x.start, count := x.count + 1, sum := x.sum + v.setWidth 32,
        sram := Memory.write x.sram (x.slot cap x.count.toNat) v } := by
  have hf : ¬ x.full cap = true := fun hf => by rw [Buf.full_iff] at hf; omega
  rw [Buf.push, if_neg hf]

theorem Buf.push_of_full {x : Buf} {cap : Nat} (h : x.count.toNat = cap) (old v : Byte) :
    x.push cap old v =
      { start := BitVec.ofNat 16 ((x.start.toNat + 1) % cap), count := x.count,
        sum := x.sum - old.setWidth 32 + v.setWidth 32,
        sram := Memory.write x.sram (x.slot cap x.count.toNat) v } := by
  rw [Buf.push, if_pos ((x.full_iff cap).mpr h)]

theorem Buf.toNat_count_add_one {x : Buf} {cap : Nat} (hcap : cap ≤ 65535) (h : x.count.toNat < cap) :
    (x.count + 1).toNat = x.count.toNat + 1 := by
  rw [BitVec.toNat_add]
  exact Nat.mod_eq_of_lt (a := x.count.toNat + 1) (by omega)

/-- A push on a buffer that is not full appends. -/
theorem Buf.cells_push_of_not_full {x : Buf} {cap : Nat} (hcap : cap ≤ 65535) (h : x.count.toNat < cap)
    (old v : Byte) : (x.push cap old v).cells cap = x.cells cap ++ [some v] := by
  have hslot : ∀ i, (x.push cap old v).slot cap i = x.slot cap i := fun i => by rw [Buf.push_of_not_full h]; rfl
  have hcount : (x.push cap old v).count.toNat = x.count.toNat + 1 := by
    rw [Buf.push_of_not_full h, ← Buf.toNat_count_add_one hcap h]
  simp only [Buf.cells, hslot, hcount, Buf.push_sram, List.range_succ, List.map_append, List.map_cons, List.map_nil,
    Memory.read_write_same]
  congr 1
  refine List.map_congr_left fun i hi => ?_
  exact x.read_write_slot (List.mem_range.mp hi) (by omega) v

theorem Buf.start_push_of_full {x : Buf} {cap : Nat} (hcap : cap ≤ 65535) (hpos : 0 < cap) (h : x.count.toNat = cap)
    (old v : Byte) : (x.push cap old v).start.toNat = (x.start.toNat + 1) % cap := by
  rw [Buf.push_of_full h, BitVec.toNat_ofNat]
  exact Nat.mod_eq_of_lt (Nat.lt_of_lt_of_le (Nat.mod_lt _ hpos) (by omega))

/-- After a push on a full buffer every index stands one slot later. -/
theorem Buf.slot_push_of_full {x : Buf} {cap : Nat} (hcap : cap ≤ 65535) (hpos : 0 < cap) (h : x.count.toNat = cap)
    (old v : Byte) (i : Nat) : (x.push cap old v).slot cap i = x.slot cap (i + 1) := by
  rw [Buf.slot, Buf.slot, Buf.start_push_of_full hcap hpos h, Nat.mod_add_mod, Nat.add_assoc, Nat.add_comm 1 i]

/-- A push on a full buffer evicts the oldest cell and appends. -/
theorem Buf.cells_push_of_full {x : Buf} {cap : Nat} (hcap : cap ≤ 65535) (hpos : 0 < cap) (h : x.count.toNat = cap)
    (old v : Byte) : (x.push cap old v).cells cap = (x.cells cap).tail ++ [some v] := by
  have hcount : (x.push cap old v).count.toNat = cap := by rw [Buf.push_of_full h]; exact h
  obtain ⟨k, rfl⟩ : ∃ k, cap = k + 1 := ⟨cap - 1, by omega⟩
  have htail : (x.cells (k + 1)).tail = (List.range k).map fun i => Memory.read x.sram (x.slot (k + 1) (i + 1)) := by
    simp only [Buf.cells, h, List.range_succ_eq_map, List.map_cons, List.tail_cons, List.map_map]
    rfl
  rw [htail]
  simp only [Buf.cells, hcount, Buf.slot_push_of_full hcap hpos h, Buf.push_sram, h, List.range_succ, List.map_append,
    List.map_cons, List.map_nil, Memory.read_write_same]
  congr 1
  refine List.map_congr_left fun i hi => ?_
  have := List.mem_range.mp hi
  exact x.read_write_slot (by omega) (by omega) v

/-! ## The logical contents after a push -/

theorem Buf.logical_push_of_not_full {x : Buf} {cap : Nat} (hcap : cap ≤ 65535) (h : x.count.toNat < cap)
    (old v : Byte) : (x.push cap old v).logical cap = x.logical cap ++ [v] := by
  simp [Buf.logical, Buf.cells_push_of_not_full hcap h]

theorem Buf.logical_push_of_full {x : Buf} {cap : Nat} (hcap : cap ≤ 65535) (hpos : 0 < cap) (h : x.count.toNat = cap)
    (old v : Byte) : (x.push cap old v).logical cap = (x.logical cap).tail ++ [v] := by
  simp [Buf.logical, Buf.cells_push_of_full hcap hpos h]

/-- The logical contents of a buffer that is not empty begin with the byte in the slot `start`. -/
theorem Buf.logical_eq_cons {x : Buf} {cap : Nat} {old : Byte} (hs : x.start.toNat < cap) (hn : 0 < x.count.toNat)
    (hold : Memory.read x.sram x.start.toNat = some old) : x.logical cap = old :: (x.logical cap).tail := by
  obtain ⟨n, hn⟩ : ∃ n, x.count.toNat = n + 1 := ⟨x.count.toNat - 1, by omega⟩
  simp [Buf.logical, Buf.cells, hn, List.range_succ_eq_map, Buf.slot_zero hs, hold]

@[simp] theorem total_nil : total [] = 0 := rfl

@[simp] theorem total_cons (v : Byte) (vs : List Byte) : total (v :: vs) = v.toNat + total vs := by simp [total]

@[simp] theorem total_append (us vs : List Byte) : total (us ++ vs) = total us + total vs := by simp [total]

/-- An exact sum is far below its 32 bits (42_ring_buffer.md R155). -/
theorem Buf.Inv.sum_le {x : Buf} {cap : Nat} (hx : x.Inv cap) : x.sum.toNat ≤ 255 * x.count.toNat := by
  obtain ⟨-, -, hsum, -⟩ := hx
  rw [hsum, ← x.length_logical cap]
  exact total_le _

/-! ## The invariant -/

/-- A buffer without samples meets the invariant if its descriptor is the zeroed one and its memory is canonical. -/
theorem Buf.inv_of_empty {x : Buf} {cap : Nat} (hcap : 0 < cap) (hs : x.start = 0) (hn : x.count = 0) (hsum : x.sum = 0)
    (hwf : Memory.wf x.sram) (hbelow : ∀ c ∈ x.sram, c.1 < cap) : x.Inv cap := by
  refine ⟨by simpa [hs] using hcap, by simp [hn], ?_, ?_, hwf, hbelow⟩
  · simp [hsum, Buf.logical, Buf.cells_of_empty hn]
  · simp [Buf.cells_of_empty hn]

theorem Buf.Inv.clear {x : Buf} {cap : Nat} (hx : x.Inv cap) : x.clear.Inv cap := by
  obtain ⟨hs, -, -, -, hwf, hbelow⟩ := hx
  exact Buf.inv_of_empty (Nat.zero_lt_of_lt hs) rfl rfl rfl hwf hbelow

theorem Buf.inv_reset {cap : Nat} (hcap : 0 < cap) : Buf.reset.Inv cap :=
  Buf.inv_of_empty hcap rfl rfl rfl List.Pairwise.nil (fun _ hc => absurd hc List.not_mem_nil)

/-- A push keeps the invariant, where a full buffer's oldest sample is the one taken off its sum (42_ring_buffer.md
R151, R155, R157). -/
theorem Buf.Inv.push {x : Buf} {cap : Nat} (hx : x.Inv cap) (hcap : cap ≤ 65535) {old : Byte}
    (hold : x.count.toNat = cap → Memory.read x.sram x.start.toNat = some old) (v : Byte) :
    (x.push cap old v).Inv cap := by
  have hle := hx.sum_le
  obtain ⟨hs, hn, hsum, hsome, hwf, hbelow⟩ := hx
  have hpos : 0 < cap := Nat.zero_lt_of_lt hs
  have hv := v.isLt
  have hmem : Memory.wf (x.push cap old v).sram ∧ ∀ c ∈ (x.push cap old v).sram, c.1 < cap := by
    rw [Buf.push_sram]
    exact ⟨Memory.wf_write hwf _ _, Memory.below_write hbelow (x.slot_lt hpos _) _⟩
  rcases Nat.lt_or_eq_of_le hn with h | h
  · refine ⟨?_, ?_, ?_, ?_, hmem⟩
    · rw [Buf.push_of_not_full h]
      exact hs
    · rw [Buf.push_of_not_full h]
      dsimp only
      rw [Buf.toNat_count_add_one hcap h]
      exact h
    · rw [Buf.logical_push_of_not_full hcap h, Buf.push_of_not_full h]
      simp only [total_append, total_cons, total_nil, ← hsum, BitVec.toNat_add, BitVec.toNat_setWidth]
      omega
    · rw [Buf.cells_push_of_not_full hcap h]
      simpa [or_imp, forall_and] using hsome
  · have hcons := Buf.logical_eq_cons hs (by omega) (hold h)
    have htotal : total (x.logical cap) = old.toNat + total (x.logical cap).tail := by
      rw [← total_cons, ← hcons]
    refine ⟨?_, ?_, ?_, ?_, hmem⟩
    · rw [Buf.start_push_of_full hcap hpos h]
      exact Nat.mod_lt _ hpos
    · rw [Buf.push_of_full h]
      exact hn
    · rw [Buf.logical_push_of_full hcap hpos h, Buf.push_of_full h]
      have := old.isLt
      simp only [total_append, total_cons, total_nil, BitVec.toNat_add, BitVec.toNat_sub, BitVec.toNat_setWidth]
      omega
    · rw [Buf.cells_push_of_full hcap hpos h]
      intro c hc
      rcases List.mem_append.mp hc with hc | hc
      · exact hsome c (List.mem_of_mem_tail hc)
      · simp [List.mem_singleton.mp hc]

end Sys2Proof.Machine
end

section
/-! What one engine step of each command can answer, said once, and the frame that follows: what a command leaves of the
host's registers, the decoder, the storage port and the buffers (spec/10_state.md R29, R31 to R33, R42, R43). -/

namespace Sys2Proof.Machine

/-! ## The ways on of one engine step -/

theorem execAtIndex_next {b : BufId} {k : Half} {s t : State} (h : execAtIndex b k s = .next t) :
    ((s.buf b).count.toNat ≤ k.toNat ∧ t = s.raise .indexRange) ∨
    (k.toNat < (s.buf b).count.toNat ∧
      t = s.complete .ok (Result.some (s.sramRead b ((s.buf b).slot (s.cap b) k.toNat)).toNat)) := by
  injection h with h
  subst h
  split
  · next hk => exact .inl ⟨hk, rfl⟩
  · next hk => exact .inr ⟨Nat.lt_of_not_le hk, rfl⟩

theorem execAvg_next {b : BufId} {s t : State} (h : execAvg b s = .next t) :
    ((s.buf b).count = 0 ∧ t = s.complete .ok Result.none) ∨
    ((s.buf b).count ≠ 0 ∧ t = s.complete .ok (Result.some ((s.buf b).sum.toNat / (s.buf b).count.toNat))) := by
  injection h with h
  subst h
  split
  · next hn => exact .inl ⟨hn, rfl⟩
  · next hn => exact .inr ⟨hn, rfl⟩

theorem execRead_next {s t : State} (h : execRead s = .next t) :
    (s.eng.started = false ∧ t = s.readBegin) ∨
    (s.eng.started = true ∧ ((∃ e, s.dec.phase = .finish e ∧ t = s.readFinish e) ∨
      (∀ e, s.dec.phase ≠ .finish e) ∧ t = s.readClock)) := by
  injection h with h
  subst h
  cases hs : s.eng.started with
  | false => exact .inl ⟨rfl, rfl⟩
  | true =>
    refine .inr ⟨rfl, ?_⟩
    rw [if_pos rfl]
    split
    · next e he => exact .inl ⟨e, he, rfl⟩
    · next hne => exact .inr ⟨hne, rfl⟩

theorem execSave_next {b : BufId} {off : Half} {s t : State} (h : execSave b off s = .next t) :
    (s.eng.started = true ∧ s.storageAccess (fun _ u => u.saveNext b off) = .next t) ∨
    (s.eng.started = false ∧ s.params.storeSize < off.toNat + 2 + (s.buf b).count.toNat ∧
      t = s.raise .storageBounds) ∨
    (s.eng.started = false ∧ off.toNat + 2 + (s.buf b).count.toNat ≤ s.params.storeSize ∧
      t = s.begin.issueWrite off 0 (s.blockByte b 0)) := by
  unfold execSave at h
  cases hs : s.eng.started with
  | true => exact .inl ⟨rfl, by simpa [hs] using h⟩
  | false =>
    rw [if_neg (by simp [hs])] at h
    split at h
    · next hb =>
      injection h with h
      exact .inr (.inl ⟨rfl, of_decide_eq_true hb, h.symm⟩)
    · next hb =>
      injection h with h
      exact .inr (.inr ⟨rfl, Nat.le_of_not_lt fun hlt => hb (decide_eq_true hlt), h.symm⟩)

theorem execLoad_next {b : BufId} {off : Half} {s t : State} (h : execLoad b off s = .next t) :
    (s.eng.started = true ∧ s.storageAccess (fun x u => u.loadNext b off x) = .next t) ∨
    (s.eng.started = false ∧ s.params.storeSize < off.toNat + 2 ∧
      t = (s.setBuf b (s.buf b).clear).raise .storageBounds) ∨
    (s.eng.started = false ∧ off.toNat + 2 ≤ s.params.storeSize ∧
      t = (s.setBuf b (s.buf b).clear).begin.issueRead off 0) := by
  unfold execLoad at h
  cases hs : s.eng.started with
  | true => exact .inl ⟨rfl, by simpa [hs] using h⟩
  | false =>
    rw [if_neg (by simp [hs])] at h
    dsimp only at h
    split at h
    · next hb =>
      injection h with h
      exact .inr (.inl ⟨rfl, of_decide_eq_true hb, h.symm⟩)
    · next hb =>
      injection h with h
      exact .inr (.inr ⟨rfl, Nat.le_of_not_lt fun hlt => hb (decide_eq_true hlt), h.symm⟩)

/-- After a byte of SAVE: the next byte's write, or completion. -/
theorem State.saveNext_cases (s : State) (b : BufId) (off : Half) :
    (s.eng.idx + 1 < (s.buf b).count.toNat + 2 ∧
      s.saveNext b off = s.issueWrite off (s.eng.idx + 1) (s.blockByte b (s.eng.idx + 1))) ∨
    ((s.buf b).count.toNat + 2 ≤ s.eng.idx + 1 ∧
      s.saveNext b off = s.endAccess.complete .ok (Result.some ((s.buf b).count.toNat + 2))) := by
  unfold State.saveNext
  dsimp only
  split
  · next h => exact .inl ⟨h, rfl⟩
  · next h => exact .inr ⟨Nat.le_of_not_lt h, rfl⟩

/-- The length a LOAD knows when its high byte `x` has been read. -/
def State.lengthRead (s : State) (x : Byte) : Half := x ++ s.eng.len.extractLsb' 0 8

/-- After a byte of LOAD: the length's high byte is read next; the length is known, and does not lie in the medium, is 0,
or the first sample is read next; a sample is pushed, and the next one read or the LOAD complete. -/
theorem State.loadNext_cases (s : State) (b : BufId) (off : Half) (x : Byte) :
    (s.eng.idx = 0 ∧ s.loadNext b off x = (s.setLen (0#8 ++ x)).issueRead off 1) ∨
    (s.eng.idx = 1 ∧ s.params.storeSize < off.toNat + 2 + (s.lengthRead x).toNat ∧
      s.loadNext b off x = (s.setLen (s.lengthRead x)).endAccess.raise .storageBounds) ∨
    (s.eng.idx = 1 ∧ s.lengthRead x = 0 ∧
      s.loadNext b off x = (s.setLen (s.lengthRead x)).endAccess.complete .ok (Result.some 2)) ∨
    (s.eng.idx = 1 ∧ off.toNat + 2 + (s.lengthRead x).toNat ≤ s.params.storeSize ∧ s.lengthRead x ≠ 0 ∧
      s.loadNext b off x = (s.setLen (s.lengthRead x)).issueRead off 2) ∨
    (2 ≤ s.eng.idx ∧ s.eng.idx + 1 < s.eng.len.toNat + 2 ∧
      s.loadNext b off x = (s.pushStep b x).issueRead off (s.eng.idx + 1)) ∨
    (2 ≤ s.eng.idx ∧ s.eng.len.toNat + 2 ≤ s.eng.idx + 1 ∧
      s.loadNext b off x = (s.pushStep b x).endAccess.complete .ok (Result.some (s.eng.len.toNat + 2))) := by
  unfold State.loadNext
  split
  · next hi => exact .inl ⟨hi, rfl⟩
  · next hi =>
    dsimp only
    split
    · next hb => exact .inr (.inl ⟨hi, of_decide_eq_true hb, rfl⟩)
    · next hb =>
      split
      · next hl => exact .inr (.inr (.inl ⟨hi, hl, rfl⟩))
      · next hl =>
        exact .inr (.inr (.inr (.inl ⟨hi, Nat.le_of_not_lt fun hlt => hb (decide_eq_true hlt), hl, rfl⟩)))
  · next j hi =>
    dsimp only
    split
    · exact .inr (.inr (.inr (.inr (.inl ⟨by omega, by omega, by rw [hi]⟩))))
    · exact .inr (.inr (.inr (.inr (.inr ⟨by omega, by omega, rfl⟩))))

/-! ## What no command changes -/

/-- What no command changes: the parameters, the environment, the registers of the host and of acceptance, and the
accepted word. -/
def State.EngineFrame (s t : State) : Prop :=
  t.params = s.params ∧ t.env = s.env ∧ s.KeepsHostRegs t ∧ t.eng.cmd = s.eng.cmd

theorem State.EngineFrame.refl (s : State) : s.EngineFrame s := ⟨rfl, rfl, ⟨rfl, rfl, rfl, rfl, rfl⟩, rfl⟩

theorem State.EngineFrame.trans {s t u : State} (hst : s.EngineFrame t) (htu : t.EngineFrame u) : s.EngineFrame u := by
  obtain ⟨hp, he, ⟨hie, hdrop, hop, hbudget, hread⟩, hc⟩ := hst
  obtain ⟨hp', he', ⟨hie', hdrop', hop', hbudget', hread'⟩, hc'⟩ := htu
  exact ⟨hp'.trans hp, he'.trans he, ⟨hie'.trans hie, hdrop'.trans hdrop, hop'.trans hop, hbudget'.trans hbudget,
    hread'.trans hread⟩, hc'.trans hc⟩

/-- The port and the bytes behind it are as before. -/
def State.KeepsMedium (s t : State) : Prop := t.port = s.port ∧ t.storage = s.storage

/-- What a command that is neither START nor READ leaves, `w` being the buffer it may write. -/
def State.LeavesAllBut (w : Option BufId) (s t : State) : Prop :=
  s.EngineFrame t ∧ s.KeepsDecoder t ∧ ∀ c, w ≠ some c → t.buf c = s.buf c

theorem State.LeavesAllBut.refl (w : Option BufId) (s : State) : State.LeavesAllBut w s s :=
  ⟨.refl s, ⟨rfl, rfl, rfl, rfl, rfl, rfl⟩, fun _ _ => rfl⟩

theorem State.LeavesAllBut.trans {w : Option BufId} {s t u : State} (hst : State.LeavesAllBut w s t)
    (htu : State.LeavesAllBut w t u) : State.LeavesAllBut w s u := by
  obtain ⟨he, ⟨hpin, hdec, hds, hrd, hfr, hnb⟩, hb⟩ := hst
  obtain ⟨he', ⟨hpin', hdec', hds', hrd', hfr', hnb'⟩, hb'⟩ := htu
  exact ⟨he.trans he', ⟨hpin'.trans hpin, hdec'.trans hdec, hds'.trans hds, hrd'.trans hrd, hfr'.trans hfr,
    hnb'.trans hnb⟩, fun c hc => (hb' c hc).trans (hb c hc)⟩

theorem State.leavesAllBut_setBuf (s : State) (b : BufId) (x : Buf) : State.LeavesAllBut (some b) s (s.setBuf b x) :=
  ⟨.refl s, ⟨rfl, rfl, rfl, rfl, rfl, rfl⟩,
    fun _ hc => s.buf_setBuf_other (fun hcb => hc (congrArg some hcb.symm)) x⟩

theorem State.leavesAllBut_performAccess (w : Option BufId) (s : State) : State.LeavesAllBut w s s.performAccess := by
  unfold State.performAccess
  split
  · exact .refl w s
  · exact .refl w s

/-- A storage edge leaves what its continuation leaves. -/
theorem State.storageAccess_leavesAllBut {w : Option BufId} {s t : State} {k : Byte → State → State}
    (hk : ∀ x u, State.LeavesAllBut w u (k x u)) (h : s.storageAccess k = .next t) : State.LeavesAllBut w s t := by
  obtain ⟨-, rfl⟩ | ⟨-, -, -, rfl⟩ := State.storageAccess_next h
  · exact .refl w t
  · exact (s.leavesAllBut_performAccess w).trans (hk _ _)

/-! ## SAVE and LOAD -/

theorem State.saveNext_leavesAllBut (s : State) (b : BufId) (off : Half) :
    State.LeavesAllBut none s (s.saveNext b off) := by
  obtain ⟨-, h⟩ | ⟨-, h⟩ := s.saveNext_cases b off
  · rw [h]
    exact .refl none s
  · rw [h]
    exact .refl none s

theorem State.loadNext_leavesAllBut (s : State) (b : BufId) (off : Half) (x : Byte) :
    State.LeavesAllBut (some b) s (s.loadNext b off x) := by
  have hpush : State.LeavesAllBut (some b) s (s.pushStep b x) := s.leavesAllBut_setBuf b _
  obtain ⟨-, h⟩ | ⟨-, -, h⟩ | ⟨-, -, h⟩ | ⟨-, -, -, h⟩ | ⟨-, -, h⟩ | ⟨-, -, h⟩ := s.loadNext_cases b off x
  all_goals rw [h]
  case inl | inr.inl | inr.inr.inl | inr.inr.inr.inl => exact .refl _ s
  case inr.inr.inr.inr.inl | inr.inr.inr.inr.inr => exact hpush.trans (.refl _ (s.pushStep b x))

theorem execSave_leavesAllBut {b : BufId} {off : Half} {s t : State} (h : execSave b off s = .next t) :
    State.LeavesAllBut none s t := by
  obtain ⟨-, h⟩ | ⟨-, -, rfl⟩ | ⟨-, -, rfl⟩ := execSave_next h
  · exact State.storageAccess_leavesAllBut (fun _ u => u.saveNext_leavesAllBut b off) h
  · exact .refl none s
  · exact .refl none s

theorem execLoad_leavesAllBut {b : BufId} {off : Half} {s t : State} (h : execLoad b off s = .next t) :
    State.LeavesAllBut (some b) s t := by
  have hclear := s.leavesAllBut_setBuf b (s.buf b).clear
  obtain ⟨-, h⟩ | ⟨-, -, rfl⟩ | ⟨-, -, rfl⟩ := execLoad_next h
  · exact State.storageAccess_leavesAllBut (fun x u => u.loadNext_leavesAllBut b off x) h
  · exact hclear.trans (.refl _ (s.setBuf b (s.buf b).clear))
  · exact hclear.trans (.refl _ (s.setBuf b (s.buf b).clear))

/-! ## READ -/

theorem State.lowPoll_regs (s : State) (t : Nat) (v : Bool) : (s.lowPoll t v).regs = s.regs := by
  obtain ⟨-, h⟩ | ⟨-, -, h⟩ | ⟨-, -, h⟩ := s.lowPoll_cases t v
  all_goals rw [h]; rfl

theorem State.highPoll_regs (s : State) (t : Nat) (v : Bool) : (s.highPoll t v).regs = s.regs := by
  cases v
  · rw [State.highPoll_false]
    split
    · exact State.lowPoll_regs _ _ _
    · rfl
  · rw [State.highPoll_true]
    split <;> rfl

/-- A tick of READ writes no register but DSTATE, FRAME and NBITS. -/
theorem State.readTick_regs (s : State) (t : Nat) :
    ∃ d f n, (s.readTick t).regs = { s.regs with dstate := d, frame := f, nbits := n } := by
  have keep : ∀ {u : State}, u.regs = s.regs →
      ∃ d f n, u.regs = { s.regs with dstate := d, frame := f, nbits := n } := fun h => ⟨_, _, _, h⟩
  unfold State.readTick
  split
  · split <;> exact keep rfl
  · split
    · split
      · exact keep rfl
      · exact ⟨_, _, _, rfl⟩
    · exact keep rfl
  · split
    · split
      · exact ⟨_, _, _, rfl⟩
      · exact keep rfl
    · exact keep rfl
  · split
    · exact ⟨_, _, _, State.lowPoll_regs _ _ _⟩
    · exact keep rfl
  · exact keep (State.lowPoll_regs _ _ _)
  · split
    · exact ⟨_, _, _, State.highPoll_regs _ _ _⟩
    · exact keep rfl
  · exact keep (State.highPoll_regs _ _ _)
  · exact keep rfl

/-- What START and READ leave: no buffer, no port, no storage byte. -/
def State.DecoderFrame (s t : State) : Prop := s.EngineFrame t ∧ t.bufs = s.bufs ∧ s.KeepsMedium t

theorem State.DecoderFrame.refl (s : State) : s.DecoderFrame s := ⟨.refl s, rfl, rfl, rfl⟩

theorem State.readTick_decoderFrame (s : State) (t : Nat) : s.DecoderFrame (s.readTick t) := by
  obtain ⟨hp, hb, he, hport, hst, henv⟩ := s.readTick_frame t
  obtain ⟨d, f, n, hr⟩ := s.readTick_regs t
  exact ⟨⟨hp, henv, by simp [State.KeepsHostRegs, hr], by rw [he]⟩, hb, hport, hst⟩

theorem State.readClock_decoderFrame (s : State) : s.DecoderFrame s.readClock := by
  unfold State.readClock
  split
  · exact .refl s
  · exact State.readTick_decoderFrame { s with dec := { s.dec with now := s.dec.now + 1, presc := 0 } } _

theorem State.readFinish_decoderFrame (s : State) (e : Err) : s.DecoderFrame (s.readFinish e) := by
  unfold State.readFinish
  dsimp only
  split
  · exact .refl s
  · exact .refl s

theorem execRead_decoderFrame {s t : State} (h : execRead s = .next t) : s.DecoderFrame t := by
  obtain ⟨-, rfl⟩ | ⟨-, ⟨e, -, rfl⟩ | ⟨-, rfl⟩⟩ := execRead_next h
  · exact .refl s
  · exact s.readFinish_decoderFrame e
  · exact s.readClock_decoderFrame

theorem execStart_decoderFrame {s t : State} (h : execStart s = .next t) : s.DecoderFrame t := by
  injection h with h
  subst h
  exact .refl s

/-! ## Every command -/

/-- Every command but START and READ leaves the decoder, and every buffer but the one it names. -/
theorem exec_leavesAllBut {i : Instr} {s t : State} (h : exec i s = .next t) (hstart : i ≠ .start) (hread : i ≠ .read) :
    State.LeavesAllBut (writtenBuffer i) s t := by
  cases i with
  | start => exact absurd rfl hstart
  | read => exact absurd rfl hread
  | init b =>
    injection h with h
    subst h
    exact (s.leavesAllBut_setBuf b _).trans (.refl _ (s.setBuf b (s.buf b).clear))
  | push b v =>
    injection h with h
    subst h
    exact (s.leavesAllBut_setBuf b _).trans (.refl _ (s.pushStep b v))
  | atIndex b k =>
    obtain ⟨-, rfl⟩ | ⟨-, rfl⟩ := execAtIndex_next h
    · exact .refl none s
    · exact .refl none s
  | avg b =>
    obtain ⟨-, rfl⟩ | ⟨-, rfl⟩ := execAvg_next h
    · exact .refl none s
    · exact .refl none s
  | save b off => exact execSave_leavesAllBut h
  | load b off => exact execLoad_leavesAllBut h

/-- Every command but SAVE and LOAD leaves the storage port and the medium. -/
theorem exec_keepsMedium {i : Instr} {s t : State} (h : exec i s = .next t) (hsave : ∀ b off, i ≠ .save b off)
    (hload : ∀ b off, i ≠ .load b off) : s.KeepsMedium t := by
  cases i with
  | start =>
    obtain ⟨-, -, hm⟩ := execStart_decoderFrame h
    exact hm
  | read =>
    obtain ⟨-, -, hm⟩ := execRead_decoderFrame h
    exact hm
  | init b =>
    injection h with h
    subst h
    exact ⟨rfl, rfl⟩
  | push b v =>
    injection h with h
    subst h
    exact ⟨rfl, rfl⟩
  | atIndex b k =>
    obtain ⟨-, rfl⟩ | ⟨-, rfl⟩ := execAtIndex_next h
    · exact ⟨rfl, rfl⟩
    · exact ⟨rfl, rfl⟩
  | avg b =>
    obtain ⟨-, rfl⟩ | ⟨-, rfl⟩ := execAvg_next h
    · exact ⟨rfl, rfl⟩
    · exact ⟨rfl, rfl⟩
  | save b off => exact absurd rfl (hsave b off)
  | load b off => exact absurd rfl (hload b off)

/-- The two kinds of command together: the frame that all share, and the buffers. -/
theorem exec_engineFrame {i : Instr} {s t : State} (h : exec i s = .next t) :
    s.EngineFrame t ∧ ∀ c, writtenBuffer i ≠ some c → t.buf c = s.buf c := by
  by_cases hstart : i = .start
  · subst hstart
    obtain ⟨he, hb, -⟩ := execStart_decoderFrame h
    exact ⟨he, fun c _ => State.buf_congr hb c⟩
  by_cases hread : i = .read
  · subst hread
    obtain ⟨he, hb, -⟩ := execRead_decoderFrame h
    exact ⟨he, fun c _ => State.buf_congr hb c⟩
  obtain ⟨he, -, hb⟩ := exec_leavesAllBut h hstart hread
  exact ⟨he, hb⟩

/-- Settles O35: the frame all commands share (`exec_engineFrame`), the decoder's (`exec_leavesAllBut`) and the port's
(`exec_keepsMedium`). -/
theorem commandsLeaveTheRest : Obligations.CommandsLeaveTheRest := by
  intro i s t h
  obtain ⟨⟨hp, henv, hregs, -⟩, hbufs⟩ := exec_engineFrame h
  refine ⟨hp, henv, hregs, fun hstart hread => ?_, fun hsave hload => ?_, hbufs⟩
  · obtain ⟨-, hdec, -⟩ := exec_leavesAllBut h hstart hread
    exact hdec
  · obtain ⟨hport, -⟩ := exec_keepsMedium h hsave hload
    exact hport

end Sys2Proof.Machine
end

section
/-! The invariant of the machine, `State.Inv`: it holds at reset and every step keeps it (spec/10_state.md R41,
20_memory.md R63, 42_ring_buffer.md R155, R157). It is taken in two parts: the data (`State.DataInv`: the parameters, the
buffers, the medium's bytes), which each operation keeps by itself, and the port against the command in progress
(`State.TransferInv`). -/

namespace Sys2Proof

theorem Params.WellFormed.cap_inRange {p : Params} (hp : p.WellFormed) (b : BufId) : Params.InRange (p.cap b) := by
  obtain ⟨⟨h0, h1, h2, h3⟩, -⟩ := hp
  cases b
  · exact h0
  · exact h1
  · exact h2
  · exact h3

theorem Params.WellFormed.storeSize_le {p : Params} (hp : p.WellFormed) : p.storeSize ≤ 65536 := by
  obtain ⟨-, ⟨-, h⟩, -⟩ := hp
  exact h

end Sys2Proof

namespace Sys2Proof.Machine

/-! ## The two parts -/

/-- The parameters in range, every buffer's invariant, and the medium canonical and within its size. -/
def State.DataInv (s : State) : Prop :=
  s.params.WellFormed ∧ (∀ b, (s.buf b).Inv (s.cap b)) ∧
  Memory.wf s.storage ∧ ∀ c ∈ s.storage, c.1 < s.params.storeSize

theorem State.inv_iff (s : State) : s.Inv ↔ s.DataInv ∧ s.TransferInv := by
  constructor
  · rintro ⟨hp, ⟨hhs, hhl, hts, htl⟩, hm, ht⟩
    refine ⟨⟨hp, fun b => ?_, hm⟩, ht⟩
    cases b
    · exact hhs
    · exact hhl
    · exact hts
    · exact htl
  · rintro ⟨⟨hp, hb, hm⟩, ht⟩
    exact ⟨hp, ⟨hb .hs, hb .hl, hb .ts, hb .tl⟩, hm, ht⟩

/-! ## The data -/

/-- The data are the parameters, the buffers and the storage, and nothing else. -/
theorem State.DataInv.congr {s t : State} (h : s.DataInv) (hp : t.params = s.params) (hb : t.bufs = s.bufs)
    (hm : t.storage = s.storage) : t.DataInv := by
  obtain ⟨hwf, hbufs, hmem⟩ := h
  simp only [State.DataInv, State.cap, State.buf_congr hb, hp, hm]
  exact ⟨hwf, hbufs, hmem⟩

theorem State.DataInv.setBuf {s : State} (h : s.DataInv) {b : BufId} {x : Buf} (hx : x.Inv (s.cap b)) :
    (s.setBuf b x).DataInv := by
  obtain ⟨hwf, hbufs, hmem⟩ := h
  refine ⟨hwf, fun c => ?_, hmem⟩
  by_cases hc : c = b
  · subst hc
    rw [State.buf_setBuf_same]
    exact hx
  · rw [State.buf_setBuf_other s hc]
    exact hbufs c

theorem State.DataInv.clear {s : State} (h : s.DataInv) (b : BufId) : (s.setBuf b (s.buf b).clear).DataInv := by
  obtain ⟨-, hbufs, -⟩ := id h
  exact h.setBuf (hbufs b).clear

/-- The slot of the oldest sample of a full buffer is written, so that PUSH takes the sample itself off the sum. -/
theorem State.DataInv.read_oldest {s : State} (h : s.DataInv) {b : BufId} (hn : (s.buf b).count.toNat = s.cap b) :
    Memory.read (s.buf b).sram (s.buf b).start.toNat = some (s.sramRead b (s.buf b).start.toNat) := by
  obtain ⟨-, hbufs, -⟩ := h
  obtain ⟨hstart, -⟩ := id (hbufs b)
  have hpos : 0 < (s.buf b).count.toNat := hn ▸ Nat.zero_lt_of_lt hstart
  have hsome := (hbufs b).read_isSome hpos
  rw [Buf.slot_zero hstart] at hsome
  obtain ⟨v, hv⟩ := Option.isSome_iff_exists.mp hsome
  rw [State.sramRead, hv, Option.getD_some]

theorem State.DataInv.pushStep {s : State} (h : s.DataInv) (b : BufId) (v : Byte) : (s.pushStep b v).DataInv := by
  have hold := h.read_oldest (b := b)
  obtain ⟨hwf, hbufs, -⟩ := id h
  exact h.setBuf ((hbufs b).push (hwf.cap_inRange b).2 hold v)

/-- An acknowledged access inside the medium keeps the data. -/
theorem State.DataInv.performAccess {s : State} (h : s.DataInv) (ha : s.port.addr.toNat < s.params.storeSize) :
    s.performAccess.DataInv := by
  unfold State.performAccess
  split
  · obtain ⟨hwf, hbufs, hmem, hbelow⟩ := h
    exact ⟨hwf, hbufs, Memory.wf_write hmem _ _, Memory.below_write hbelow ha _⟩
  · exact h

/-- Forgetting a byte of the medium keeps the data. -/
theorem State.DataInv.erase {s : State} (h : s.DataInv) (a : Nat) :
    State.DataInv { s with storage := Memory.erase s.storage a } := by
  obtain ⟨hwf, hbufs, hmem, hbelow⟩ := h
  exact ⟨hwf, hbufs, Memory.wf_erase hmem a, fun c hc => hbelow c (Memory.mem_erase hc)⟩

/-! ## The port -/

/-- The port's invariant reads BUSY, the engine, the port, the counts and the size of the medium only. -/
theorem State.TransferInv.congr {s t : State} (h : s.TransferInv) (hbusy : t.regs.busy = s.regs.busy)
    (heng : t.eng = s.eng) (hport : t.port = s.port) (hbufs : t.bufs = s.bufs) (hp : t.params = s.params) :
    t.TransferInv := by
  simp only [State.TransferInv, hbusy, heng, hport, State.buf_congr hbufs, hp]
  exact h

theorem State.TransferInv.req_of_not_started {s : State} (h : s.TransferInv)
    (hs : ¬(s.regs.busy = true ∧ s.eng.started = true)) : s.port.req = false := by
  unfold State.TransferInv at h
  rwa [if_neg hs] at h

/-- With a word that is neither SAVE nor LOAD no access is outstanding, and that is all. -/
theorem State.transferInv_other {s : State} (hsave : ∀ b off, decode s.eng.cmd ≠ .instr (.save b off))
    (hload : ∀ b off, decode s.eng.cmd ≠ .instr (.load b off)) : s.TransferInv ↔ s.port.req = false := by
  unfold State.TransferInv
  split
  · split
    · next b off hd => exact absurd hd (hsave b off)
    · next b off hd => exact absurd hd (hload b off)
    · exact Iff.rfl
  · exact Iff.rfl

/-! ## Both parts after a completion and after an access is issued -/

theorem State.DataInv.inv_complete {s : State} (h : s.DataInv) (hr : s.port.req = false) (e : Err) (r : Result) :
    (s.complete e r).Inv :=
  (State.inv_iff _).mpr ⟨h.congr rfl rfl rfl, State.transferInv_idle (fun hb => Bool.false_ne_true hb.1) hr⟩

theorem toNat_ofNat_offset {p : Params} (hp : p.WellFormed) {off : Half} {j : Nat}
    (h : off.toNat + j < p.storeSize) : (BitVec.ofNat 16 (off.toNat + j)).toNat = off.toNat + j := by
  have := hp.storeSize_le
  rw [BitVec.toNat_ofNat, Nat.mod_eq_of_lt (by omega)]

/-- The write of byte `j` of a block that lies in the medium keeps the invariant with a SAVE in progress. -/
theorem State.DataInv.inv_issueWrite {s : State} {b : BufId} {off : Half} {j : Nat} (h : s.DataInv)
    (hbusy : s.regs.busy = true) (hs : s.eng.started = true) (hd : decode s.eng.cmd = .instr (.save b off))
    (hj : j < (s.buf b).count.toNat + 2) (hb : off.toNat + 2 + (s.buf b).count.toNat ≤ s.params.storeSize) (v : Byte) :
    (s.issueWrite off j v).Inv := by
  obtain ⟨hp, -⟩ := id h
  exact (State.inv_iff _).mpr ⟨h.congr rfl rfl rfl, (State.transferInv_save (s := s.issueWrite off j v) hbusy hs hd).mpr
    ⟨rfl, rfl, toNat_ofNat_offset hp (by omega), hj, hb⟩⟩

/-- The read of byte `j` of a block keeps the invariant with a LOAD in progress, if the header lies in the medium, and so
does the block where its length is known. -/
theorem State.DataInv.inv_issueRead {s : State} {b : BufId} {off : Half} {j : Nat} (h : s.DataInv)
    (hbusy : s.regs.busy = true) (hs : s.eng.started = true) (hd : decode s.eng.cmd = .instr (.load b off))
    (hh : off.toNat + 2 ≤ s.params.storeSize)
    (hb : 2 ≤ j → j < s.eng.len.toNat + 2 ∧ off.toNat + 2 + s.eng.len.toNat ≤ s.params.storeSize) :
    (s.issueRead off j).Inv := by
  obtain ⟨hp, -⟩ := id h
  have hj : off.toNat + j < s.params.storeSize := by
    by_cases h2 : 2 ≤ j
    · obtain ⟨hlt, hle⟩ := hb h2
      omega
    · omega
  exact (State.inv_iff _).mpr ⟨h.congr rfl rfl rfl, (State.transferInv_load (s := s.issueRead off j) hbusy hs hd).mpr
    ⟨rfl, rfl, toNat_ofNat_offset hp hj, hh, hb⟩⟩

/-! ## SAVE and LOAD -/

theorem State.DataInv.saveNext {s : State} {b : BufId} {off : Half} (h : s.DataInv) (hbusy : s.regs.busy = true)
    (hs : s.eng.started = true) (hd : decode s.eng.cmd = .instr (.save b off))
    (hb : off.toNat + 2 + (s.buf b).count.toNat ≤ s.params.storeSize) : (s.saveNext b off).Inv := by
  obtain ⟨hj, h'⟩ | ⟨-, h'⟩ := s.saveNext_cases b off
  all_goals rw [h']
  · exact h.inv_issueWrite hbusy hs hd hj hb _
  · exact (h.congr (t := s.endAccess) rfl rfl rfl).inv_complete rfl _ _

/-- A byte of LOAD: the length is kept, or a sample is pushed, and then an access follows or the LOAD completes. -/
theorem State.DataInv.loadNext {s : State} {b : BufId} {off : Half} (h : s.DataInv) (hbusy : s.regs.busy = true)
    (hs : s.eng.started = true) (hd : decode s.eng.cmd = .instr (.load b off))
    (hh : off.toNat + 2 ≤ s.params.storeSize)
    (hb : 2 ≤ s.eng.idx → off.toNat + 2 + s.eng.len.toNat ≤ s.params.storeSize) (x : Byte) :
    (s.loadNext b off x).Inv := by
  have hlen : ∀ l, (s.setLen l).DataInv := fun l => h.congr rfl rfl rfl
  have hpush := h.pushStep b x
  have complete : ∀ {u : State}, u.DataInv → ∀ e r, (u.endAccess.complete e r).Inv :=
    fun {u} hu e r => (hu.congr (t := u.endAccess) rfl rfl rfl).inv_complete rfl e r
  obtain ⟨-, h'⟩ | ⟨-, -, h'⟩ | ⟨-, -, h'⟩ | ⟨-, hl, hl0, h'⟩ | ⟨hi, hlt, h'⟩ | ⟨-, -, h'⟩ := s.loadNext_cases b off x
  all_goals rw [h']
  · exact (hlen _).inv_issueRead hbusy hs hd hh (by omega)
  · exact complete (hlen _) _ _
  · exact complete (hlen _) _ _
  · have hpos : 0 < (s.lengthRead x).toNat := Nat.pos_of_ne_zero fun h0 => hl0 (BitVec.eq_of_toNat_eq h0)
    exact (hlen _).inv_issueRead hbusy hs hd hh fun _ => ⟨by simpa using hpos, hl⟩
  · exact hpush.inv_issueRead hbusy hs hd hh fun _ => ⟨hlt, hb hi⟩
  · exact complete hpush _ _

theorem execSave_inv {b : BufId} {off : Half} {s t : State} (hinv : s.Inv) (hbusy : s.regs.busy = true)
    (hd : decode s.eng.cmd = .instr (.save b off)) (h : execSave b off s = .next t) : t.Inv := by
  obtain ⟨hdata, htr⟩ := s.inv_iff.mp hinv
  obtain ⟨hs, h⟩ | ⟨hs, -, rfl⟩ | ⟨-, hb, rfl⟩ := execSave_next h
  · obtain ⟨-, -, -, -, hb⟩ := (State.transferInv_save hbusy hs hd).mp htr
    obtain ⟨-, rfl⟩ | ⟨-, -, ha, rfl⟩ := State.storageAccess_next h
    · exact hinv
    · have hbuf := State.buf_congr s.performAccess_bufs b
      exact (hdata.performAccess ha).saveNext (by simpa using hbusy) (by simpa using hs) (by simpa using hd)
        (by simpa [hbuf] using hb)
  · exact hdata.inv_complete (htr.req_of_not_started (by simp [hs])) _ _
  · exact (hdata.congr (t := s.begin) rfl rfl rfl).inv_issueWrite hbusy rfl hd (Nat.succ_pos _) hb _

theorem execLoad_inv {b : BufId} {off : Half} {s t : State} (hinv : s.Inv) (hbusy : s.regs.busy = true)
    (hd : decode s.eng.cmd = .instr (.load b off)) (h : execLoad b off s = .next t) : t.Inv := by
  obtain ⟨hdata, htr⟩ := s.inv_iff.mp hinv
  have hclear := hdata.clear b
  obtain ⟨hs, h⟩ | ⟨hs, -, rfl⟩ | ⟨-, hh, rfl⟩ := execLoad_next h
  · obtain ⟨-, -, -, hh, hb⟩ := (State.transferInv_load hbusy hs hd).mp htr
    obtain ⟨-, rfl⟩ | ⟨-, -, ha, rfl⟩ := State.storageAccess_next h
    · exact hinv
    · exact (hdata.performAccess ha).loadNext (by simpa using hbusy) (by simpa using hs) (by simpa using hd)
        (by simpa using hh) (by simpa using fun hi => (hb hi).2) _
  · exact hclear.inv_complete (htr.req_of_not_started (by simp [hs])) _ _
  · exact (hclear.congr (t := (s.setBuf b (s.buf b).clear).begin) rfl rfl rfl).inv_issueRead hbusy rfl hd hh (by omega)

/-! ## Every command -/

/-- A command that is neither SAVE nor LOAD keeps the data: only INIT and PUSH write a buffer, and none the medium. -/
theorem State.DataInv.exec {i : Instr} {s t : State} (hdata : s.DataInv) (hsave : ∀ b off, i ≠ .save b off)
    (hload : ∀ b off, i ≠ .load b off) (h : exec i s = .next t) : t.DataInv := by
  cases i with
  | start =>
    obtain ⟨⟨hp, -⟩, hb, -, hm⟩ := execStart_decoderFrame h
    exact hdata.congr hp hb hm
  | read =>
    obtain ⟨⟨hp, -⟩, hb, -, hm⟩ := execRead_decoderFrame h
    exact hdata.congr hp hb hm
  | init b =>
    injection h with h
    subst h
    exact (hdata.clear b).congr rfl rfl rfl
  | push b v =>
    injection h with h
    subst h
    exact (hdata.pushStep b v).congr rfl rfl rfl
  | atIndex b k =>
    obtain ⟨-, rfl⟩ | ⟨-, rfl⟩ := execAtIndex_next h
    · exact hdata.congr rfl rfl rfl
    · exact hdata.congr rfl rfl rfl
  | avg b =>
    obtain ⟨-, rfl⟩ | ⟨-, rfl⟩ := execAvg_next h
    · exact hdata.congr rfl rfl rfl
    · exact hdata.congr rfl rfl rfl
  | save b off => exact absurd rfl (hsave b off)
  | load b off => exact absurd rfl (hload b off)

/-- The engine step of the command in progress keeps the invariant. -/
theorem exec_inv {i : Instr} {s t : State} (hinv : s.Inv) (hbusy : s.regs.busy = true)
    (hd : decode s.eng.cmd = .instr i) (h : exec i s = .next t) : t.Inv := by
  by_cases hsave : ∃ b off, i = .save b off
  · obtain ⟨b, off, rfl⟩ := hsave
    exact execSave_inv hinv hbusy hd h
  by_cases hload : ∃ b off, i = .load b off
  · obtain ⟨b, off, rfl⟩ := hload
    exact execLoad_inv hinv hbusy hd h
  push Not at hsave hload
  obtain ⟨hdata, htr⟩ := s.inv_iff.mp hinv
  obtain ⟨⟨-, -, -, hcmd⟩, -⟩ := exec_engineFrame h
  obtain ⟨hport, -⟩ := exec_keepsMedium h hsave hload
  have other : ∀ {u : State}, u.eng.cmd = s.eng.cmd → (u.TransferInv ↔ u.port.req = false) := fun hc =>
    State.transferInv_other (fun b off => by simpa [hc, hd] using hsave b off)
      (fun b off => by simpa [hc, hd] using hload b off)
  refine (State.inv_iff t).mpr ⟨hdata.exec hsave hload h, (other hcmd).mpr ?_⟩
  rw [hport]
  exact (other rfl).mp htr

/-! ## The clock edge -/

theorem State.busEdge_not_started {s : State} (h : s.regs.busy = false) (a : Option Access) :
    ¬((s.busEdge a).regs.busy = true ∧ (s.busEdge a).eng.started = true) := by
  have idle : ∀ {u : State}, u.regs.busy = false → ¬(u.regs.busy = true ∧ u.eng.started = true) := fun hu => by simp [hu]
  match a with
  | none => exact idle h
  | some (.read addr) => exact idle h
  | some (.write addr d) =>
    show ¬((s.writeReg addr d).regs.busy = true ∧ (s.writeReg addr d).eng.started = true)
    unfold State.writeReg
    split
    · exact idle h
    · exact idle h
    · rw [if_neg (by simp [h])]
      exact fun hs => Bool.false_ne_true hs.2
    · exact idle h
    · exact idle h

/-- While a command is in progress the host's part of an edge leaves the engine. -/
theorem State.hostEdge_busy {s : State} (h : s.regs.busy = true) :
    s.hostEdge.eng = s.eng ∧ s.hostEdge.regs.busy = true := by
  obtain ⟨heng, -, hb⟩ := State.busEdge_busy h s.accessNow
  unfold State.hostEdge
  dsimp only
  split
  · exact ⟨heng, hb⟩
  · exact ⟨heng, hb⟩

/-- The bus accepts a command only where none is in progress, so that no access is outstanding, and that command has not
begun. -/
theorem State.TransferInv.busEdge {s : State} (h : s.TransferInv) (a : Option Access) : (s.busEdge a).TransferInv := by
  obtain ⟨hp, hbufs, -, hport, -, -⟩ := s.busEdge_frame a
  cases hb : s.regs.busy with
  | true =>
    obtain ⟨heng, -, hb'⟩ := State.busEdge_busy hb a
    exact h.congr (hb'.trans hb.symm) heng hport hbufs hp
  | false =>
    have hr := h.req_of_not_started (by simp [hb])
    exact State.transferInv_idle (State.busEdge_not_started hb a) (by rwa [hport])

theorem State.Inv.hostEdge {s : State} (hinv : s.Inv) : s.hostEdge.Inv := by
  obtain ⟨hdata, htr⟩ := s.inv_iff.mp hinv
  obtain ⟨hp, hbufs, -, -, hst, -⟩ := s.busEdge_frame s.accessNow
  have hdata' : (s.busEdge s.accessNow).DataInv := hdata.congr hp hbufs hst
  have htr' := htr.busEdge s.accessNow
  unfold State.hostEdge
  dsimp only
  split
  · exact (State.inv_iff _).mpr ⟨hdata'.erase _, htr'.congr rfl rfl rfl rfl rfl⟩
  · exact (State.inv_iff _).mpr ⟨hdata', htr'⟩

theorem State.Inv.closeEdge {t : State} (hinv : t.Inv) (s : State) : (s.closeEdge t).Inv := by
  obtain ⟨hdata, htr⟩ := t.inv_iff.mp hinv
  exact (State.inv_iff _).mpr ⟨hdata.congr rfl rfl rfl, htr.congr rfl rfl rfl rfl rfl⟩

/-- An illegal command has no access outstanding, and completes. -/
theorem State.Inv.execIllegal {s : State} {op : BitVec 4} (hinv : s.Inv) (hd : decode s.eng.cmd = .illegal op) :
    s.execIllegal.Inv := by
  obtain ⟨hdata, htr⟩ := s.inv_iff.mp hinv
  have hr := (State.transferInv_other (by simp [hd]) (by simp [hd])).mp htr
  exact hdata.inv_complete hr _ _

/-! ## Reset -/

/-- The reset state with any canonical contents of the medium within its size. -/
theorem State.inv_resetWith {p : Params} (hp : p.WellFormed) {m : Memory} (hwf : Memory.wf m)
    (hbelow : ∀ c ∈ m, c.1 < p.storeSize) : State.Inv { State.resetWith p with storage := m } := by
  refine (State.inv_iff _).mpr ⟨⟨hp, fun b => ?_, hwf, hbelow⟩,
    State.transferInv_idle (fun h => Bool.false_ne_true h.1) rfl⟩
  have hcap := hp.cap_inRange b
  cases b <;> exact Buf.inv_reset hcap.1

theorem State.Inv.storageAtReset {s : State} (hinv : s.Inv) :
    Memory.wf s.storageAtReset ∧ ∀ c ∈ s.storageAtReset, c.1 < s.params.storeSize := by
  obtain ⟨hdata, -⟩ := s.inv_iff.mp hinv
  unfold State.storageAtReset
  split
  · obtain ⟨-, -, hmem⟩ := hdata.erase s.port.addr.toNat
    exact hmem
  · obtain ⟨-, -, hmem⟩ := hdata
    exact hmem

theorem State.Inv.resetEdge {s : State} (hinv : s.Inv) : s.resetEdge.Inv := by
  obtain ⟨hp, -⟩ := id hinv
  obtain ⟨hwf, hbelow⟩ := hinv.storageAtReset
  obtain ⟨hdata, htr⟩ := (State.inv_iff _).mp (State.inv_resetWith hp hwf hbelow)
  exact (State.inv_iff _).mpr ⟨hdata.congr rfl rfl rfl, htr.congr rfl rfl rfl rfl rfl⟩

/-- Settles O55: after reset every buffer is empty, the medium lists nothing and no command is in progress. -/
theorem invariantHoldsAtReset : Obligations.InvariantHoldsAtReset := by
  have h : ∀ p : Params, p.WellFormed → (State.resetWith p).Inv := fun p hp =>
    State.inv_resetWith hp List.Pairwise.nil fun _ hc => absurd hc List.not_mem_nil
  exact ⟨h, h _ (by decide)⟩

/-- Settles O54, along the five kinds of step: the host's part of an edge keeps the invariant (`State.Inv.hostEdge`), so
does the engine's (`exec_inv`, `State.Inv.execIllegal`), and a reset edge starts it anew (`State.Inv.resetEdge`). -/
theorem everyStepKeepsTheInvariant : Obligations.EveryStepKeepsTheInvariant := by
  intro s t hinv h
  obtain ⟨r, -, hs⟩ | ⟨-, -, hs⟩ | ⟨-, -, -, hs⟩ | ⟨-, -, hb, i, hd, hs⟩ | ⟨-, -, hb, op, hd, hs⟩ := step_cases s
  all_goals rw [hs] at h
  · cases h
  · injection h with h
    exact h ▸ hinv.resetEdge
  · injection h with h
    exact h ▸ hinv.hostEdge.closeEdge s
  · obtain ⟨u, hu, rfl⟩ := onNext_next h
    obtain ⟨heng, hb'⟩ := State.hostEdge_busy hb
    exact (exec_inv hinv.hostEdge hb' (heng ▸ hd) hu).closeEdge s
  · injection h with h
    obtain ⟨heng, -⟩ := State.hostEdge_busy hb
    exact h ▸ (hinv.hostEdge.execIllegal (heng ▸ hd)).closeEdge s

end Sys2Proof.Machine
end

section
/-! The register words as the bus reads them (spec/10_state.md R21 to R39): each is fields placed in a word, so what a
field of it reads follows from two facts about `placeField`, that the field's own bits give the field back and that no
other bit is touched. -/

namespace Sys2Proof

theorem getLsbD_placeField {n : Nat} (x : BitVec n) (lo i : Nat) :
    (placeField x lo).getLsbD i = (decide (i < 32) && decide (lo ≤ i) && x.getLsbD (i - lo)) := by
  by_cases h : i < 32
  · by_cases hl : lo ≤ i
    · simp [placeField, h, hl]
    · simp [placeField, hl, Nat.lt_of_not_le hl]
  · simp [placeField, h]

@[simp] theorem placeField_zero (n lo : Nat) : placeField (0#n) lo = 0 := by simp [placeField]

/-- The bits beside a field are 0. -/
@[simp] theorem getLsbD_placeField_other {n lo i : Nat} (h : lo + n ≤ i ∨ i < lo) (x : BitVec n) :
    (placeField x lo).getLsbD i = false := by
  rw [getLsbD_placeField]
  rcases h with h | h
  · rw [BitVec.getLsbD_of_ge x _ (by omega), Bool.and_false]
  · rw [decide_eq_false (by omega : ¬lo ≤ i), Bool.and_false, Bool.false_and]

@[simp] theorem getLsbD_placeField_flag {lo : Nat} (h : lo < 32) (v : Bool) :
    (placeField (BitVec.ofBool v) lo).getLsbD lo = v := by
  rw [getLsbD_placeField]
  simp [h]

/-- The bits of a field give the field back. -/
@[simp] theorem extractLsb'_placeField_same {n lo : Nat} (h : lo + n ≤ 32) (x : BitVec n) :
    (placeField x lo).extractLsb' lo n = x := by
  refine BitVec.eq_of_getLsbD_eq fun i hi => ?_
  have h32 : lo + i < 32 := by omega
  rw [BitVec.getLsbD_extractLsb', getLsbD_placeField]
  simp [h32, hi]

@[simp] theorem extractLsb'_placeField_other {n lo p m : Nat} (h : lo + n ≤ p ∨ p + m ≤ lo) (x : BitVec n) :
    (placeField x lo).extractLsb' p m = 0 := by
  refine BitVec.eq_of_getLsbD_eq fun i hi => ?_
  rw [BitVec.getLsbD_extractLsb', getLsbD_placeField_other (by omega)]
  simp

/-- Two 16-bit fields in one word. -/
theorem toNat_placeField_halves (lo hi : Half) :
    (placeField lo 0 ||| placeField hi 16).toNat = hi.toNat * 65536 + lo.toNat := by
  have := lo.isLt
  have := hi.isLt
  simp only [placeField, BitVec.toNat_or, BitVec.toNat_shiftLeft, BitVec.toNat_setWidth, Nat.shiftLeft_eq,
    Nat.pow_zero, Nat.mul_one]
  rw [Nat.mod_eq_of_lt (by omega), Nat.mod_eq_of_lt (by omega), Nat.mod_eq_of_lt (by omega), Nat.mod_eq_of_lt (by omega),
    Nat.lor_comm, Nat.mul_comm, ← Nat.two_pow_add_eq_or_of_lt lo.isLt]
  
end Sys2Proof

namespace Sys2Proof.Machine

/-! ## Which register is read -/

/-- A read sees bits [6:2] of the address only. -/
theorem State.readReg_congr (s : State) {a a' : BitVec 7} (h : a.extractLsb' 2 5 = a'.extractLsb' 2 5) :
    s.readReg a = s.readReg a' := by
  rw [State.readReg, State.readReg, h]

/-- The unmapped addresses read 0. -/
theorem State.readReg_unmapped (s : State) {a : BitVec 7}
    (h : a.extractLsb' 2 5 = 11 ∨ 20 ≤ (a.extractLsb' 2 5).toNat) : s.readReg a = 0 := by
  rcases h with h | h
  · exact s.readReg_congr (a' := 0x2C) h
  · obtain ⟨k, hk⟩ := Nat.exists_eq_add_of_le' h
    rw [State.readReg, hk]
    rfl

/-! ## The codes -/

theorem Err.code_lt (e : Err) : e.code.toNat < 8 := by cases e <;> decide

theorem DState.code_lt (d : DState) : d.code.toNat < 8 := by cases d <;> decide

/-! ## The layouts -/

/-- Settles O13: each field of `State.statusWord` is read back at its place, and no other field reaches it. -/
theorem statusRegisterLayout : Obligations.StatusRegisterLayout := by
  intro s addr h
  have hw : s.readReg addr = s.statusWord := s.readReg_congr (a' := 0x08) h
  have herr : s.statusWord.extractLsb' 4 4 = s.regs.err.code := by simp [State.statusWord, BitVec.extractLsb'_or]
  have hds : s.statusWord.extractLsb' 8 4 = s.regs.dstate.code := by simp [State.statusWord, BitVec.extractLsb'_or]
  rw [hw, herr, hds]
  refine ⟨?_, ?_, ?_, ?_, rfl, rfl, s.regs.err.code_lt, s.regs.dstate.code_lt, ?_, ?_⟩
  all_goals simp [State.statusWord, BitVec.extractLsb'_or, -BitVec.getLsbD_eq_getElem]

/-- Settles O14: each field is read back at its place, as in STATUS. -/
theorem resultAndFrameRegisterLayout : Obligations.ResultAndFrameRegisterLayout := by
  intro s addr
  refine ⟨fun h => ?_, fun h => ?_, fun h => ?_, fun h => ?_, fun h => ?_⟩
  · rw [show s.readReg addr = s.budgetWord from s.readReg_congr (a' := 0x10) h]
    simp [State.budgetWord]
  · rw [show s.readReg addr = s.resultWord from s.readReg_congr (a' := 0x14) h]
    simp [State.resultWord, BitVec.extractLsb'_or, -BitVec.getLsbD_eq_getElem]
  · rw [show s.readReg addr = s.readingWord from s.readReg_congr (a' := 0x18) h]
    simp [State.readingWord, BitVec.extractLsb'_or, -BitVec.getLsbD_eq_getElem]
  · rw [show s.readReg addr = s.frame0Word from s.readReg_congr (a' := 0x1C) h]
    simp [State.frame0Word, BitVec.extractLsb'_or]
  · rw [show s.readReg addr = s.frame1Word from s.readReg_congr (a' := 0x20) h]
    simp [State.frame1Word, BitVec.extractLsb'_or]

theorem capWord_fields {lo hi : Nat} (hlo : Params.InRange lo) (hhi : Params.InRange hi) :
    ((capWord lo hi).extractLsb' 0 16).toNat = lo ∧ ((capWord lo hi).extractLsb' 16 16).toNat = hi := by
  obtain ⟨-, hlo⟩ := hlo
  obtain ⟨-, hhi⟩ := hhi
  have hl : (capWord lo hi).extractLsb' 0 16 = BitVec.ofNat 16 lo := by simp [capWord, BitVec.extractLsb'_or]
  have hh : (capWord lo hi).extractLsb' 16 16 = BitVec.ofNat 16 hi := by simp [capWord, BitVec.extractLsb'_or]
  rw [hl, hh, BitVec.toNat_ofNat, BitVec.toNat_ofNat]
  exact ⟨Nat.mod_eq_of_lt (by omega), Nat.mod_eq_of_lt (by omega)⟩

/-- Settles O15: constants, the fields of the capacity and descriptor words, and `State.readReg_unmapped`. -/
theorem identityAndBufferRegisters : Obligations.IdentityAndBufferRegisters := by
  intro s b hp
  obtain ⟨⟨h0, h1, h2, h3⟩, -⟩ := hp
  have hstat : s.readReg (BitVec.ofNat 7 (0x30 + 8 * b.code.toNat)) = (s.buf b).statWord := by cases b <;> rfl
  have hsum : s.readReg (BitVec.ofNat 7 (0x34 + 8 * b.code.toNat)) = (s.buf b).sum := by cases b <;> rfl
  have hctrl : s.readReg 0x04 = s.ctrlWord := rfl
  obtain ⟨hcap0, hcap1⟩ := capWord_fields h0 h1
  obtain ⟨hcap2, hcap3⟩ := capWord_fields h2 h3
  rw [hstat, hsum, hctrl]
  refine ⟨rfl, ?_, ?_, rfl, hcap0, hcap1, hcap2, hcap3, ?_, ?_, rfl, fun _ h => s.readReg_unmapped h⟩
  · exact getLsbD_placeField_flag (by omega) _
  · exact extractLsb'_placeField_other (by omega) _
  · simp [Buf.statWord, BitVec.extractLsb'_or]
  · simp [Buf.statWord, BitVec.extractLsb'_or]

/-! ## After reset -/

theorem capWord_eq (lo hi : Nat) : capWord lo hi = BitVec.ofNat 32 (hi % 65536 * 65536 + lo % 65536) := by
  refine BitVec.eq_of_toNat_eq ?_
  rw [capWord, toNat_placeField_halves]
  simp only [BitVec.toNat_ofNat]
  omega

/-- Settles O20: the reset state's registers are literals, up to the parameters' fields. -/
theorem resetValues : Obligations.ResetValues := by
  intro p b
  have hbudget : (State.resetWith p).readReg 0x10 = BitVec.ofNat 32 (p.budgetReset % 65536) := by
    refine BitVec.eq_of_toNat_eq ?_
    show (placeField (BitVec.ofNat 16 p.budgetReset) 0).toNat = _
    simp [placeField]
  refine ⟨rfl, rfl, ?_, hbudget, ?_, ?_, ?_, ?_, capWord_eq _ _, capWord_eq _ _, ?_, ?_, ?_, rfl, rfl, rfl, rfl, rfl, rfl,
    rfl⟩
  · show (State.resetWith p).statusWord = 0
    simp [State.statusWord, State.resetWith, Err.code, DState.code]
  · show (State.resetWith p).resultWord = 0
    simp [State.resultWord, State.resetWith, Result.none]
  · show (State.resetWith p).readingWord = 0
    simp [State.readingWord, State.resetWith, Reading.zero]
  · show (State.resetWith p).frame0Word = 0
    simp [State.frame0Word, State.resetWith, Frame.zero]
  · show (State.resetWith p).frame1Word = 0
    simp [State.frame1Word, State.resetWith, Frame.zero]
  all_goals cases b <;> rfl

/-- Settles O58: no READ is in progress, and the budget and the synchroniser's stages are the parameters'. -/
theorem decoderInvariantHoldsAtReset : Obligations.DecoderInvariantHoldsAtReset := by
  have h : ∀ p : Params, p.WellFormed → (State.resetWith p).DecoderInv := by
    intro p hp
    obtain ⟨-, -, -, -, -, hlo, hhi⟩ := hp
    have hbudget : (State.resetWith p).regs.budget ≠ 0 := fun h0 => by
      have hmod : p.budgetReset % 65536 = 0 := congrArg BitVec.toNat h0
      omega
    exact State.decoderInv_idle (fun hr => Bool.false_ne_true hr.1) hbudget (fun hb => absurd hb Bool.false_ne_true)
      List.length_replicate (by simp [State.resetWith])
  exact ⟨h, h _ (by decide)⟩

end Sys2Proof.Machine
end

section
/-! The host's side of a clock edge against the engine's (spec/40_command_engine.md R100, R102 to R105, R109 to R111): the
engine reads neither IE, DONE, DROP, POLL_BUDGET, the read data nor the host's coming actions, so that a bus write shows
in its own register alone. -/

namespace Sys2Proof.Machine

/-! ## The kinds of step, each by its condition -/

theorem step_of_idle {s : State} (hn : s.noMove = none) (hr : s.resetNow = false) (hb : s.regs.busy = false) :
    step s = .next (s.closeEdge s.hostEdge) := by
  simp [step, hn, hr, hb]

theorem step_of_instr {s : State} {i : Instr} (hn : s.noMove = none) (hr : s.resetNow = false)
    (hb : s.regs.busy = true) (hd : decode s.eng.cmd = .instr i) :
    step s = onNext s.closeEdge (exec i s.hostEdge) := by
  simp [step, hn, hr, hb, hd]

/-- The host's part of an edge is its bus access, up to the medium's bytes. -/
theorem State.hostEdge_eq_busEdge (s : State) :
    s.hostEdge.regs = (s.busEdge s.accessNow).regs ∧ s.hostEdge.eng = (s.busEdge s.accessNow).eng := by
  unfold State.hostEdge
  dsimp only
  split
  · exact ⟨rfl, rfl⟩
  · exact ⟨rfl, rfl⟩

/-! ## Acceptance and tick 0 of a READ -/

theorem State.accessNow_of_writesNow {s : State} {r : Nat} {d : Word} (h : s.writesNow r = some d) :
    ∃ addr : BitVec 7, s.accessNow = some (.write addr d) ∧ (addr.extractLsb' 2 5).toNat = r := by
  unfold State.writesNow at h
  split at h
  · next addr d' ha =>
    split at h
    · next hr =>
      injection h with h
      exact ⟨addr, h ▸ ha, hr⟩
    · cases h
  · cases h

/-- A CMD write between commands accepts the word at this edge. -/
theorem State.hostEdge_accept {s : State} {w : Word} (hw : s.writesNow 3 = some w) (hb : s.regs.busy = false) :
    s.hostEdge.regs = { (s.accept w).regs with busRdata := none } ∧ s.hostEdge.eng = (s.accept w).eng := by
  obtain ⟨addr, ha, hr⟩ := State.accessNow_of_writesNow hw
  have hwr : s.writeReg addr w = s.accept w := by simp [State.writeReg, hr, hb]
  obtain ⟨hregs, heng⟩ := s.hostEdge_eq_busEdge
  rw [hregs, heng, ha]
  simp [State.busEdge, State.readData, hwr]

theorem decode_of_read {w : Word} (h : opField w = 2#4) : decode w = .instr .read := by
  simp [decode, h]

theorem execRead_of_not_started {s : State} (h : s.eng.started = false) : execRead s = .next s.readBegin := by
  simp [execRead, h]

/-- Settles O60: acceptance writes DSTATE (`State.acceptDState`), and a READ's first engine step is its tick 0, which
writes it again. -/
theorem readShowsReleaseByTickZero : Obligations.ReadShowsReleaseByTickZero := by
  intro s w hn hw hr hb
  obtain ⟨hregs, heng⟩ := State.hostEdge_accept hw hb
  have hds : (s.closeEdge s.hostEdge).regs.dstate = s.acceptDState w := by rw [closeEdge_regs, hregs]; rfl
  refine ⟨_, step_of_idle hn hr hb, fun hop => ?_, fun hop => ⟨?_, fun hn' hr' => ?_⟩⟩
  · rw [hds, State.acceptDState_of_ne_read s hop]
  · rw [hds, State.acceptDState_of_read s hop]
  · generalize ht : s.closeEdge s.hostEdge = t at hn' hr' ⊢
    have htb : t.regs.busy = true := by rw [← ht, closeEdge_regs, hregs]; rfl
    have hte : t.eng = { s.eng with cmd := w, started := false } := by rw [← ht, closeEdge_eng, heng]; rfl
    obtain ⟨heng', -⟩ := State.hostEdge_busy htb
    have hd : decode t.eng.cmd = .instr .read := by rw [hte]; exact decode_of_read hop
    have hx : exec .read t.hostEdge = .next t.hostEdge.readBegin :=
      execRead_of_not_started (by rw [heng', hte])
    exact ⟨t.closeEdge t.hostEdge.readBegin, by rw [step_of_instr hn' hr' htb hd, hx]; rfl, rfl⟩

/-! ## The engine does not see the host -/

/-- What the host may change while a command is in progress, and its coming actions. -/
structure HostView where
  ie     : Bool
  done   : Bool
  drop   : Bool
  budget : Half
  rdata  : Option Word
  host   : List HostOp

/-- The state with the host's side replaced. -/
def State.withHost (s : State) (v : HostView) : State :=
  { s with
    regs := { s.regs with ie := v.ie, done := v.done, drop := v.drop, budget := v.budget, busRdata := v.rdata },
    env := { s.env with host := v.host } }

/-- The host's side of a state. -/
def State.hostView (s : State) : HostView :=
  { ie := s.regs.ie, done := s.regs.done, drop := s.regs.drop, budget := s.regs.budget, rdata := s.regs.busRdata,
    host := s.env.host }

section
variable (s : State) (v : HostView)

/-! What the engine reads of a state. The proofs are by cases and not by `rfl` alone, so that `simp` rewrites the
conditions of an `if` together with their decision procedures. -/

@[simp] theorem State.withHost_params : (s.withHost v).params = s.params := by cases s; rfl
@[simp] theorem State.withHost_frame : (s.withHost v).regs.frame = s.regs.frame := by cases s; rfl
@[simp] theorem State.withHost_dec : (s.withHost v).dec = s.dec := by cases s; rfl
@[simp] theorem State.withHost_eng : (s.withHost v).eng = s.eng := by cases s; rfl
@[simp] theorem State.withHost_port : (s.withHost v).port = s.port := by cases s; rfl
@[simp] theorem State.withHost_buf (b : BufId) : (s.withHost v).buf b = s.buf b := by cases s; rfl
@[simp] theorem State.withHost_ackNow : (s.withHost v).ackNow = s.ackNow := by cases s; rfl
@[simp] theorem State.withHost_sample : (s.withHost v).sample = s.sample := by cases s; rfl
@[simp] theorem State.withHost_storageRead (a : Nat) : (s.withHost v).storageRead a = s.storageRead a := by cases s; rfl

@[simp] theorem State.withHost_performAccess : (s.withHost v).performAccess = s.performAccess.withHost v := by
  simp only [State.performAccess, State.withHost_port]
  split_ifs <;> rfl

/-! ### READ -/

@[simp] theorem State.withHost_lowPoll (t : Nat) (x : Bool) :
    (s.withHost v).lowPoll t x = (s.lowPoll t x).withHost v := by
  simp only [State.lowPoll, State.withHost_dec]
  split_ifs <;> rfl

@[simp] theorem State.withHost_highPoll (t : Nat) (x : Bool) :
    (s.withHost v).highPoll t x = (s.highPoll t x).withHost v := by
  cases x
  · rw [State.highPoll_false, State.highPoll_false, State.withHost_dec, State.withHost_frame]
    split_ifs
    · exact State.withHost_lowPoll { s with dec := { s.dec with bit := s.dec.bit + 1, polls := 1 } } v t false
    · rfl
    · rfl
  · rw [State.highPoll_true, State.highPoll_true, State.withHost_dec]
    split_ifs <;> rfl

theorem State.withHost_bitSample (t : Nat) (x : Bool) :
    (s.withHost v).bitSample t x = (s.bitSample t x).withHost v :=
  State.withHost_highPoll (State.setPolls { s with regs := { s.regs with
    frame := s.regs.frame.setBit s.dec.bit x, nbits := BitVec.ofNat 6 (s.dec.bit + 1) } } 1) v t x

theorem State.withHost_readTick (t : Nat) : (s.withHost v).readTick t = (s.readTick t).withHost v := by
  simp only [State.readTick, State.withHost_dec, State.withHost_params, State.withHost_sample]
  cases s.dec.phase with
  | release | input | ackLow =>
    dsimp only
    split_ifs <;> rfl
  | ackHigh =>
    dsimp only
    split_ifs
    · exact State.withHost_lowPoll ((s.setDState .rxBits).setPolls 1) v t _
    · rfl
  | low => exact State.withHost_lowPoll (s.setPolls (s.dec.polls + 1)) v t _
  | settle wake =>
    dsimp only
    split_ifs
    · exact s.withHost_bitSample v t _
    · rfl
  | high => exact State.withHost_highPoll (s.setPolls (s.dec.polls + 1)) v t _
  | finish e => rfl

theorem State.withHost_readClock : (s.withHost v).readClock = s.readClock.withHost v := by
  simp only [State.readClock, State.withHost_dec, State.withHost_params]
  split_ifs
  · rfl
  · exact State.withHost_readTick { s with dec := { s.dec with now := s.dec.now + 1, presc := 0 } } v _

theorem State.readClock_busy : s.readClock.regs.busy = s.regs.busy := by
  unfold State.readClock
  split
  · rfl
  · obtain ⟨_, _, _, h⟩ :=
      State.readTick_regs { s with dec := { s.dec with now := s.dec.now + 1, presc := 0 } } (s.dec.now + 1)
    rw [h]

/-! ### Every command -/

/-- The engine's step of `s` and of `s` with another host side, side by side: it goes on and leaves that side, or
completes and sets DONE in it, or faults. -/
inductive StepsAlike : Host.Outcome State Fault Refusal → Host.Outcome State Fault Refusal → Prop where
  | goesOn {t : State} (h : t.regs.busy = s.regs.busy) : StepsAlike (.next t) (.next (t.withHost v))
  | completes (t : State) (e : Err) (r : Result) :
    StepsAlike (.next (t.complete e r)) (.next ((t.withHost v).complete e r))
  | faults (f : Fault) : StepsAlike (.fault f) (.fault f)

theorem State.readFinish_alike (e : Err) :
    StepsAlike s v (.next (s.readFinish e)) (.next ((s.withHost v).readFinish e)) := by
  simp only [State.readFinish]
  split_ifs
  · exact .completes _ _ _
  · exact .completes _ _ _

theorem execRead_alike : StepsAlike s v (execRead s) (execRead (s.withHost v)) := by
  have clock : StepsAlike s v (.next s.readClock) (.next (s.withHost v).readClock) :=
    (s.withHost_readClock v) ▸ .goesOn s.readClock_busy
  simp only [execRead, State.withHost_eng, State.withHost_dec]
  split_ifs
  · cases s.dec.phase with
    | finish e => exact s.readFinish_alike v e
    | release | input | ackLow | ackHigh | low | settle _ | high => exact clock
  · exact .goesOn rfl

theorem State.saveNext_alike (b : BufId) (off : Half) :
    StepsAlike s v (.next (s.saveNext b off)) (.next ((s.withHost v).saveNext b off)) := by
  simp only [State.saveNext, State.withHost_eng, State.withHost_buf]
  split_ifs
  · exact .goesOn rfl
  · exact .completes _ _ _

theorem State.loadNext_alike (b : BufId) (off : Half) (x : Byte) :
    StepsAlike s v (.next (s.loadNext b off x)) (.next ((s.withHost v).loadNext b off x)) := by
  simp only [State.loadNext, State.withHost_eng, State.withHost_params]
  split
  · exact .goesOn rfl
  · split_ifs
    · exact .completes _ _ _
    · exact .completes _ _ _
    · exact .goesOn rfl
  · split_ifs
    · exact .goesOn rfl
    · exact .completes _ _ _

/-- A storage edge waits, goes on as its continuation does, or faults. -/
theorem State.storageAccess_alike {k : Byte → State → State}
    (hk : ∀ x u, u.regs.busy = s.regs.busy → StepsAlike s v (.next (k x u)) (.next (k x (u.withHost v)))) :
    StepsAlike s v (s.storageAccess k) ((s.withHost v).storageAccess k) := by
  simp only [State.storageAccess, State.withHost_port, State.withHost_ackNow, State.withHost_params,
    State.withHost_storageRead, State.withHost_performAccess]
  split_ifs
  · exact hk _ _ (by rw [State.performAccess_regs])
  · exact .faults _
  · exact .goesOn rfl

end

theorem StepsAlike.congr {s u : State} {v : HostView} {o o' : Host.Outcome State Fault Refusal}
    (h : StepsAlike u v o o') (hb : u.regs.busy = s.regs.busy) : StepsAlike s v o o' := by
  cases h with
  | goesOn ht => exact .goesOn (ht.trans hb)
  | completes t e r => exact .completes t e r
  | faults f => exact .faults f

theorem exec_alike (i : Instr) (s : State) (v : HostView) : StepsAlike s v (exec i s) (exec i (s.withHost v)) := by
  cases i with
  | start | init b | push b x => exact .completes _ _ _
  | read => exact execRead_alike s v
  | atIndex b k =>
    simp only [exec, execAtIndex, State.withHost_buf]
    split_ifs
    · exact .completes _ _ _
    · exact .completes _ _ _
  | avg b =>
    simp only [exec, execAvg, State.withHost_buf]
    split_ifs
    · exact .completes _ _ _
    · exact .completes _ _ _
  | save b off =>
    simp only [exec, execSave, State.withHost_eng, State.withHost_params, State.withHost_buf]
    split_ifs
    · exact s.storageAccess_alike v fun _ u hu => (u.saveNext_alike v b off).congr hu
    · exact .completes _ _ _
    · exact .goesOn rfl
  | load b off =>
    simp only [exec, execLoad, State.withHost_eng, State.withHost_params]
    split_ifs
    · exact s.storageAccess_alike v fun x u hu => (u.loadNext_alike v b off x).congr hu
    · exact .completes _ _ _
    · exact .goesOn rfl

/-! ## A whole edge -/

/-- The host's side after an edge that led from `s` to `t`: a completion sets DONE, whatever the host wrote at that edge
(40_command_engine.md R109). -/
def HostView.after (v : HostView) (s t : State) : HostView :=
  { v with done := (s.regs.busy && !t.regs.busy) || v.done }

theorem StepsAlike.onNext_after {s : State} {v : HostView} {o o' : Host.Outcome State Fault Refusal}
    (h : StepsAlike s v o o') (hb : s.regs.busy = true) : o' = onNext (fun t => t.withHost (v.after s t)) o := by
  cases h with
  | goesOn ht => simp [onNext, HostView.after, ht]
  | completes t e r => simp [onNext, HostView.after, hb, State.complete, State.withHost]
  | faults f => rfl

/-- The engine's part of an edge without reset, the host's left out. -/
def State.engineEdge (s : State) : Host.Outcome State Fault Refusal :=
  if s.regs.busy then
    match decode s.eng.cmd with
    | .instr i => exec i s
    | .illegal _ => .next s.execIllegal
  else .next s

theorem State.engineEdge_withHost (s : State) (v : HostView) :
    (s.withHost v).engineEdge = onNext (fun t => t.withHost (v.after s t)) s.engineEdge := by
  have hcmd : (s.withHost v).eng.cmd = s.eng.cmd := rfl
  have hbusy : (s.withHost v).regs.busy = s.regs.busy := rfl
  rw [State.engineEdge, State.engineEdge, hcmd, hbusy]
  cases hb : s.regs.busy with
  | false => simp [onNext, HostView.after, hb]
  | true =>
    cases decode s.eng.cmd with
    | instr i => exact (exec_alike i s v).onNext_after hb
    | illegal op => exact (StepsAlike.completes s .illegalOp Result.none).onNext_after hb

theorem step_eq_engineEdge {s : State} (hn : s.noMove = none) (hr : s.resetNow = false)
    (hb : s.hostEdge.regs.busy = s.regs.busy) (hcmd : s.hostEdge.eng.cmd = s.eng.cmd) :
    step s = onNext s.closeEdge s.hostEdge.engineEdge := by
  rw [step, hn, State.engineEdge, hb, hcmd]
  simp only [hr, Bool.false_eq_true, if_false]
  cases s.regs.busy with
  | false => rfl
  | true => cases decode s.eng.cmd <;> rfl

/-- An edge is the engine's part with the host's side put in, where the host's part does no more than that. -/
theorem step_of_hostEdge_view {s : State} {v : HostView} (hn : s.noMove = none) (hr : s.resetNow = false)
    (he : s.hostEdge = s.withHost v) :
    step s = onNext (fun t => s.closeEdge (t.withHost (v.after s t))) s.engineEdge := by
  rw [step_eq_engineEdge hn hr (by rw [he]; rfl) (by rw [he]; rfl), he, State.engineEdge_withHost]
  cases s.engineEdge <;> rfl

/-! ## Bus writes -/

/-- The host's side after an edge at which its access changes nothing. -/
def State.quietView (s : State) : HostView := { s.hostView with rdata := none }

/-- The state with a cycle without an access in place of the host's next one. -/
def State.idleFirst (s : State) (ops : List HostOp) : State :=
  { s with env := { s.env with host := .delay 1 :: ops } }

section
variable {s : State} {addr : BitVec 7} {d : Word} {ops : List HostOp}
  (hs : s.env.host = .bus (.write addr d) :: ops)
include hs

theorem State.noMove_idleFirst : (s.idleFirst ops).noMove = s.noMove := by
  rw [State.noMove, State.noMove, hs]
  rfl

theorem State.resetNow_of_write : s.resetNow = false := by
  simp [State.resetNow, hs]

theorem State.closeEdge_idleFirst (t : State) : (s.idleFirst ops).closeEdge t = s.closeEdge t := by
  simp [State.closeEdge, State.hostAfter, State.idleFirst, hs, HostOp.rest, State.syncAfter, State.levelNow]

/-- A write that changes the host's side alone makes the host's part of the edge do so. -/
theorem State.hostEdge_of_write {v : HostView} (hw : s.writeReg addr d = s.withHost v) :
    s.hostEdge = s.withHost { v with rdata := none } := by
  simp [State.hostEdge, State.accessNow, hs, HostOp.access, State.busEdge, State.readData, hw, State.withHost]

/-- The edge with the write and the edge with the idle cycle are one engine part with two host sides. -/
theorem step_of_write {v : HostView} (hn : s.noMove = none) (hw : s.writeReg addr d = s.withHost v) :
    step s = onNext (fun t => s.closeEdge (t.withHost (HostView.after { v with rdata := none } s t))) s.engineEdge ∧
    step (s.idleFirst ops) = onNext (fun t => s.closeEdge (t.withHost (s.quietView.after s t))) s.engineEdge := by
  refine ⟨step_of_hostEdge_view hn (State.resetNow_of_write hs) (State.hostEdge_of_write hs hw), ?_⟩
  have hidle : s.idleFirst ops = s.withHost { s.hostView with host := .delay 1 :: ops } := rfl
  rw [step_of_hostEdge_view (s := s.idleFirst ops) (v := (s.idleFirst ops).quietView)
    ((State.noMove_idleFirst hs).trans hn) rfl rfl]
  simp only [State.closeEdge_idleFirst hs]
  rw [hidle, State.engineEdge_withHost]
  cases s.engineEdge <;> rfl

/-- A write that leaves every register has no effect. -/
theorem step_of_ignored_write (hw : s.writeReg addr d = s) : step s = step (s.idleFirst ops) := by
  cases hn : s.noMove with
  | some r => rw [step_of_noMove hn, step_of_noMove ((State.noMove_idleFirst hs).trans hn)]
  | none =>
    obtain ⟨h, h'⟩ := step_of_write (v := s.hostView) hs hn hw
    rw [h, h']
    rfl

/-- Where the edge with the idle cycle leads to `t`, the edge with the write differs by the host's side alone. -/
theorem step_of_register_write {v : HostView} {t : State} (hw : s.writeReg addr d = s.withHost v)
    (ht : step (s.idleFirst ops) = .next t) :
    step s = .next (t.withHost { v.after s t with rdata := none, host := t.env.host }) ∧
      t = t.withHost { s.quietView.after s t with host := t.env.host } := by
  cases hn : s.noMove with
  | some r =>
    rw [step_of_noMove ((State.noMove_idleFirst hs).trans hn)] at ht
    cases ht
  | none =>
    obtain ⟨h, h'⟩ := step_of_write hs hn hw
    rw [h'] at ht
    obtain ⟨u, hu, rfl⟩ := onNext_next ht
    rw [h, hu]
    exact ⟨rfl, rfl⟩

end

/-- Settles O16: a write changes at most the host's side of the state, which the engine does not read; so the edge is the
idle one but for IE, or DONE and DROP, or BUDGET. -/
theorem writeToReadOnlyIsIgnored : Obligations.WriteToReadOnlyIsIgnored := by
  intro s addr d ops hs
  refine ⟨fun ha => step_of_ignored_write hs ?_, fun t ht => ⟨fun ha => ?_, fun ha => ?_, fun ha => ?_⟩⟩
  · rcases ha with ha | ha
    · simp [State.writeReg, ha]
    · obtain ⟨k, hk⟩ := Nat.exists_eq_add_of_le' ha
      rw [State.writeReg, hk]
      rfl
  · have hw : s.writeReg addr d = s.withHost { s.hostView with ie := d.getLsbD 0 } := by
      rw [State.writeReg, ha]
      rfl
    obtain ⟨h, hq⟩ := step_of_register_write hs hw ht
    rw [h, hq]
    rfl
  · have hw : s.writeReg addr d = s.withHost
        { s.hostView with done := s.regs.done && !d.getLsbD 1, drop := s.regs.drop && !d.getLsbD 2 } := by
      rw [State.writeReg, ha]
      rfl
    obtain ⟨h, hq⟩ := step_of_register_write hs hw ht
    rw [h, hq]
    rfl
  · have hw : s.writeReg addr d = s.withHost { s.hostView with budget := budgetOf d } := by
      rw [State.writeReg, ha]
      rfl
    obtain ⟨h, hq⟩ := step_of_register_write hs hw ht
    rw [h, hq]
    rfl

end Sys2Proof.Machine
end

section
/-! The bytes of the storage medium and of the sample memories (spec/20_memory.md R60, R63, R65, R66): how an edge of the
storage handshake waits, which one byte an engine step can change, and that every access lies in the medium. -/

namespace Sys2Proof.Machine

/-! ## Waiting for the acknowledge -/

/-- Without a request or without `st_ack` a storage edge holds everything. -/
theorem State.storageAccess_wait {s : State} (h : s.port.req = false ∨ s.ackNow = false) (k : Byte → State → State) :
    s.storageAccess k = .next s := by
  rcases h with hr | hack
  · simp [State.storageAccess, hr]
  · simp [State.storageAccess, hack]

theorem execSave_of_started {s : State} (h : s.eng.started = true) (b : BufId) (off : Half) :
    execSave b off s = s.storageAccess (fun _ t => t.saveNext b off) := if_pos h

theorem execLoad_of_started {s : State} (h : s.eng.started = true) (b : BufId) (off : Half) :
    execLoad b off s = s.storageAccess (fun x t => t.loadNext b off x) := if_pos h

/-- Settles O43: once begun, SAVE and LOAD are edges of the storage handshake, which waits. -/
theorem storageAccessWaitsForAck : Obligations.StorageAccessWaitsForAck := by
  intro s b off hs hwait
  exact ⟨(execSave_of_started hs b off).trans (State.storageAccess_wait hwait _),
    (execLoad_of_started hs b off).trans (State.storageAccess_wait hwait _)⟩

/-! ## The bytes of the medium -/

theorem State.saveNext_storage (s : State) (b : BufId) (off : Half) : (s.saveNext b off).storage = s.storage := by
  obtain ⟨-, h⟩ | ⟨-, h⟩ := s.saveNext_cases b off
  all_goals rw [h]; rfl

theorem State.loadNext_storage (s : State) (b : BufId) (off : Half) (x : Byte) :
    (s.loadNext b off x).storage = s.storage := by
  obtain ⟨-, h⟩ | ⟨-, -, h⟩ | ⟨-, -, h⟩ | ⟨-, -, -, h⟩ | ⟨-, -, h⟩ | ⟨-, -, h⟩ := s.loadNext_cases b off x
  all_goals rw [h]; rfl

/-- An acknowledged access changes a byte only if it is a write at its address (20_memory.md R66). -/
theorem State.read_performAccess {s : State} {a : Nat} (ha : s.port.we = true → a ≠ s.port.addr.toNat) :
    Memory.read s.performAccess.storage a = Memory.read s.storage a := by
  rw [State.performAccess_storage]
  split
  · next hw => exact Memory.read_write_other _ (ha hw) _
  · rfl

/-- A storage edge changes a byte only if a write outstanding at its address is acknowledged. -/
theorem State.read_storage_of_storageAccess {s t : State} {k : Byte → State → State} {a : Nat}
    (hk : ∀ x u, (k x u).storage = u.storage) (h : s.storageAccess k = .next t)
    (ha : s.port.req = true → s.ackNow = true → s.port.we = true → a ≠ s.port.addr.toNat) :
    Memory.read t.storage a = Memory.read s.storage a := by
  obtain ⟨-, rfl⟩ | ⟨hr, hack, -, rfl⟩ := State.storageAccess_next h
  · rfl
  · rw [hk]
    exact State.read_performAccess (ha hr hack)

theorem execSave_read_storage {b : BufId} {off : Half} {s t : State} {a : Nat} (h : execSave b off s = .next t)
    (ha : s.eng.started = true → s.port.req = true → s.ackNow = true → s.port.we = true → a ≠ s.port.addr.toNat) :
    Memory.read t.storage a = Memory.read s.storage a := by
  obtain ⟨hs, h⟩ | ⟨-, -, rfl⟩ | ⟨-, -, rfl⟩ := execSave_next h
  · exact State.read_storage_of_storageAccess (fun _ u => u.saveNext_storage b off) h (ha hs)
  · rfl
  · rfl

theorem execLoad_read_storage {b : BufId} {off : Half} {s t : State} {a : Nat} (h : execLoad b off s = .next t)
    (ha : s.eng.started = true → s.port.req = true → s.ackNow = true → s.port.we = true → a ≠ s.port.addr.toNat) :
    Memory.read t.storage a = Memory.read s.storage a := by
  obtain ⟨hs, h⟩ | ⟨-, -, rfl⟩ | ⟨-, -, rfl⟩ := execLoad_next h
  · exact State.read_storage_of_storageAccess (fun x u => u.loadNext_storage b off x) h (ha hs)
  · rfl
  · rfl

/-- A command changes a byte of the medium only if it is a SAVE or LOAD in progress and its outstanding write at that
address is acknowledged. -/
theorem exec_read_storage {i : Instr} {s t : State} {a : Nat} (h : exec i s = .next t)
    (ha : (∃ b off, i = .save b off ∨ i = .load b off) → s.eng.started = true → s.port.req = true →
      s.ackNow = true → s.port.we = true → a ≠ s.port.addr.toNat) :
    Memory.read t.storage a = Memory.read s.storage a := by
  by_cases hsl : ∃ b off, i = .save b off ∨ i = .load b off
  · obtain ⟨b, off, rfl | rfl⟩ := id hsl
    · exact execSave_read_storage h (ha hsl)
    · exact execLoad_read_storage h (ha hsl)
  · push Not at hsl
    obtain ⟨-, hm⟩ := exec_keepsMedium h (fun b off => (hsl b off).1) (fun b off => (hsl b off).2)
    rw [hm]

/-! ## The bytes of the sample memories -/

/-- A push changes only the slot after the newest sample. -/
theorem Buf.read_push_other {x : Buf} {cap j : Nat} (hj : j ≠ x.slot cap x.count.toNat) (old v : Byte) :
    Memory.read (x.push cap old v).sram j = Memory.read x.sram j := by
  rw [Buf.push_sram]
  exact Memory.read_write_other _ hj _

theorem State.read_pushStep_other {s : State} {b : BufId} {j : Nat}
    (hj : j ≠ (s.buf b).slot (s.cap b) (s.buf b).count.toNat) (v : Byte) :
    Memory.read ((s.pushStep b v).buf b).sram j = Memory.read (s.buf b).sram j := by
  rw [State.pushStep_buf]
  exact Buf.read_push_other hj _ _

/-- After a byte of its block LOAD has pushed on its buffer if the byte was a sample, and otherwise left it. -/
theorem State.loadNext_bufs (s : State) (b : BufId) (off : Half) (x : Byte) :
    (s.loadNext b off x).bufs = if 2 ≤ s.eng.idx then (s.pushStep b x).bufs else s.bufs := by
  obtain ⟨hi, h⟩ | ⟨hi, -, h⟩ | ⟨hi, -, h⟩ | ⟨hi, -, -, h⟩ | ⟨hi, -, h⟩ | ⟨hi, -, h⟩ := s.loadNext_cases b off x
  all_goals rw [h]
  case inl | inr.inl | inr.inr.inl | inr.inr.inr.inl => exact (if_neg (by omega)).symm
  case inr.inr.inr.inr.inl | inr.inr.inr.inr.inr => exact (if_pos hi).symm

theorem State.loadNext_read_sram {s : State} {b : BufId} {j : Nat}
    (hj : 2 ≤ s.eng.idx → j ≠ (s.buf b).slot (s.cap b) (s.buf b).count.toNat) (off : Half) (x : Byte) :
    Memory.read ((s.loadNext b off x).buf b).sram j = Memory.read (s.buf b).sram j := by
  have hbufs := s.loadNext_bufs b off x
  by_cases hi : 2 ≤ s.eng.idx
  · rw [State.buf_congr (hbufs.trans (if_pos hi))]
    exact State.read_pushStep_other (hj hi) x
  · rw [State.buf_congr (hbufs.trans (if_neg hi))]

/-- LOAD changes only the slot an acknowledged sample is pushed to: emptying the buffer keeps its sample memory. -/
theorem execLoad_read_sram {b : BufId} {off : Half} {s t : State} {j : Nat} (h : execLoad b off s = .next t)
    (hj : s.eng.started = true → s.port.req = true → s.ackNow = true → 2 ≤ s.eng.idx →
      j ≠ (s.buf b).slot (s.cap b) (s.buf b).count.toNat) :
    Memory.read (t.buf b).sram j = Memory.read (s.buf b).sram j := by
  have hclear : ((s.setBuf b (s.buf b).clear).buf b).sram = (s.buf b).sram := by rw [State.buf_setBuf_same]; rfl
  obtain ⟨hs, h⟩ | ⟨-, -, rfl⟩ | ⟨-, -, rfl⟩ := execLoad_next h
  · obtain ⟨-, rfl⟩ | ⟨hr, hack, -, rfl⟩ := State.storageAccess_next h
    · rfl
    · have hbuf := State.buf_congr s.performAccess_bufs b
      rw [State.loadNext_read_sram, hbuf]
      simpa [State.cap, hbuf] using hj hs hr hack
  · exact congrArg (Memory.read · j) hclear
  · exact congrArg (Memory.read · j) hclear

/-- A command changes a byte of a sample memory only if it is the slot after the newest sample and the command a PUSH on
that buffer, or a LOAD into it whose sample read is acknowledged. -/
theorem exec_read_sram {i : Instr} {s t : State} {c : BufId} {j : Nat} (h : exec i s = .next t)
    (hpush : ∀ x, i = .push c x → j ≠ (s.buf c).slot (s.cap c) (s.buf c).count.toNat)
    (hload : ∀ off, i = .load c off → s.eng.started = true → s.port.req = true → s.ackNow = true → 2 ≤ s.eng.idx →
      j ≠ (s.buf c).slot (s.cap c) (s.buf c).count.toNat) :
    Memory.read (t.buf c).sram j = Memory.read (s.buf c).sram j := by
  by_cases hw : writtenBuffer i = some c
  · cases i with
    | init b =>
      injection hw with hw
      subst hw
      injection h with h
      subst h
      show Memory.read ((s.setBuf b (s.buf b).clear).buf b).sram j = _
      rw [State.buf_setBuf_same]
      rfl
    | push b v =>
      injection hw with hw
      subst hw
      injection h with h
      subst h
      exact State.read_pushStep_other (hpush v rfl) v
    | load b off =>
      injection hw with hw
      subst hw
      exact execLoad_read_sram h (hload off rfl)
    | start | read | atIndex b k | avg b | save b off => cases hw
  · obtain ⟨-, hb⟩ := exec_engineFrame h
    rw [hb c hw]

/-- Settles O36: the bytes of the medium (`exec_read_storage`) and of the sample memories (`exec_read_sram`). -/
theorem commandsLeaveOtherBytes : Obligations.CommandsLeaveOtherBytes := by
  intro i s t h
  exact ⟨fun _ ha => exec_read_storage h ha, fun _ _ hpush hload => exec_read_sram h hpush hload⟩

/-! ## No access beyond the medium -/

/-- An access outstanding under the invariant lies in the medium: it is a byte of SAVE's block, which lies there whole,
or of the header of LOAD's block, or of its samples once the length is known. -/
theorem State.TransferInv.addr_lt {s : State} (h : s.TransferInv) (hr : s.port.req = true) :
    s.port.addr.toNat < s.params.storeSize := by
  by_cases hrun : s.regs.busy = true ∧ s.eng.started = true
  case neg => simp [h.req_of_not_started hrun] at hr
  obtain ⟨hb, hs⟩ := hrun
  by_cases hsave : ∃ b off, decode s.eng.cmd = .instr (.save b off)
  · obtain ⟨b, off, hd⟩ := hsave
    obtain ⟨-, -, haddr, hidx, hfit⟩ := (State.transferInv_save hb hs hd).mp h
    omega
  by_cases hload : ∃ b off, decode s.eng.cmd = .instr (.load b off)
  · obtain ⟨b, off, hd⟩ := hload
    obtain ⟨-, -, haddr, hheader, hblock⟩ := (State.transferInv_load hb hs hd).mp h
    by_cases hidx : 2 ≤ s.eng.idx
    · obtain ⟨hlt, hfit⟩ := hblock hidx
      omega
    · omega
  push Not at hsave hload
  simp [(State.transferInv_other hsave hload).mp h] at hr

/-- An engine step faults only on an access acknowledged at an address the medium does not have. -/
theorem exec_fault {i : Instr} {s : State} {f : Fault} (h : exec i s = .fault f) :
    s.port.req = true ∧ s.params.storeSize ≤ s.port.addr.toNat := by
  have access : ∀ {k : Byte → State → State}, s.storageAccess k = .fault f →
      s.port.req = true ∧ s.params.storeSize ≤ s.port.addr.toNat := fun hk => by
    obtain ⟨hr, -, ha⟩ := State.storageAccess_fault hk
    exact ⟨hr, ha⟩
  cases i with
  | start | read | init b | push b v | atIndex b k | avg b => cases h
  | save b off =>
    change execSave b off s = .fault f at h
    unfold execSave at h
    split at h
    · exact access h
    · split at h <;> cases h
  | load b off =>
    change execLoad b off s = .fault f at h
    unfold execLoad at h
    split at h
    · exact access h
    · dsimp only at h
      split at h <;> cases h

theorem onNext_fault {g : State → State} {o : Host.Outcome State Fault Refusal} {f : Fault}
    (h : onNext g o = .fault f) : o = .fault f := by
  cases o with
  | next u => cases h
  | fault r => exact h
  | refused r => cases h

theorem State.Inv.exec_ne_fault {s : State} (hinv : s.Inv) (i : Instr) (f : Fault) : exec i s ≠ .fault f := by
  intro h
  obtain ⟨hr, ha⟩ := exec_fault h
  obtain ⟨-, htr⟩ := s.inv_iff.mp hinv
  exact Nat.not_le_of_lt (htr.addr_lt hr) ha

/-- Settles O56: the port's invariant bounds the address (`State.TransferInv.addr_lt`), the host's part of an edge keeps
it, and of the five kinds of step only an engine step could fault. -/
theorem noAccessBeyondTheMedium : Obligations.NoAccessBeyondTheMedium := by
  intro s hinv
  obtain ⟨-, htr⟩ := s.inv_iff.mp hinv
  refine ⟨htr.addr_lt, fun f h => ?_⟩
  obtain ⟨r, -, hs⟩ | ⟨-, -, hs⟩ | ⟨-, -, -, hs⟩ | ⟨-, -, -, i, -, hs⟩ | ⟨-, -, -, op, -, hs⟩ := step_cases s
  all_goals rw [hs] at h
  case inr.inr.inr.inl => exact hinv.hostEdge.exec_ne_fault i f (onNext_fault h)
  all_goals cases h

end Sys2Proof.Machine
end

section
/-! The command word (spec/30_encoding.md R85 to R92): what a word decodes to by its opcode, which of its bits the decoder
sees, and the word the assembler writes, as a number. -/

namespace Sys2Proof

/-! ## Decoding by opcode -/

@[simp] theorem BufId.ofCode_code (b : BufId) : BufId.ofCode b.code = b := by cases b <;> rfl

@[simp] theorem BufId.code_ofCode (c : BitVec 2) : (BufId.ofCode c).code = c := by revert c; decide

section
variable {w : Word}

theorem decode_of_start (h : opField w = 1#4) : decode w = .instr .start := by simp [decode, h]

theorem decode_of_init (h : opField w = 3#4) : decode w = .instr (.init (BufId.ofCode (bufField w))) := by
  simp [decode, h]

theorem decode_of_push (h : opField w = 4#4) :
    decode w = .instr (.push (BufId.ofCode (bufField w)) (sampleField w)) := by simp [decode, h]

theorem decode_of_at (h : opField w = 5#4) :
    decode w = .instr (.atIndex (BufId.ofCode (bufField w)) (argField w)) := by simp [decode, h]

theorem decode_of_avg (h : opField w = 6#4) : decode w = .instr (.avg (BufId.ofCode (bufField w))) := by
  simp [decode, h]

theorem decode_of_save (h : opField w = 7#4) :
    decode w = .instr (.save (BufId.ofCode (bufField w)) (argField w)) := by simp [decode, h]

theorem decode_of_load (h : opField w = 8#4) :
    decode w = .instr (.load (BufId.ofCode (bufField w)) (argField w)) := by simp [decode, h]

theorem decode_of_illegal (h : opField w = 0#4 ∨ 9 ≤ (opField w).toNat) : decode w = .illegal (opField w) := by
  rcases h with h | h
  · simp [decode, h]
  · obtain ⟨k, hk⟩ := Nat.exists_eq_add_of_le' h
    rw [decode, hk]
    rfl

end

/-- Settles O2: one equation of the decoder for each opcode, with the buffer named by its number. -/
theorem decodeIsTotalByOpcode : Obligations.DecodeIsTotalByOpcode := by
  intro w b hb
  have hbuf : BufId.ofCode (bufField w) = b := by rw [bufField, ← hb, BufId.ofCode_code]
  subst hbuf
  exact ⟨decode_of_start, Machine.decode_of_read, decode_of_init, decode_of_push, decode_of_at, decode_of_avg,
    decode_of_save, decode_of_load, decode_of_illegal⟩

/-! ## The bits the decoder sees -/

/-- PUSH's sample is the low byte of ARG (30_encoding.md R88). -/
theorem sampleField_eq (w : Word) : sampleField w = (argField w).extractLsb' 0 8 := by
  refine BitVec.eq_of_getLsbD_eq fun i hi => ?_
  have h16 : i < 16 := by omega
  simp only [sampleField, argField, BitVec.getLsbD_extractLsb', hi, h16, Nat.zero_add, decide_true, Bool.true_and]

/-- The decoder sees OP, BUF and ARG only. -/
theorem decode_congr {w v : Word} (hop : opField w = opField v) (hbuf : bufField w = bufField v)
    (harg : argField w = argField v) : decode w = decode v := by
  simp only [decode, sampleField_eq, hop, hbuf, harg]

/-- Settles O3: bits [15:6] are no field (`decode_congr`), and the equation of each opcode names the fields it uses. -/
theorem ignoredBitsDoNotChangeTheCommand : Obligations.IgnoredBitsDoNotChangeTheCommand := by
  intro w v hop
  change opField w = opField v at hop
  refine ⟨decode_congr hop, fun hw hbuf hx => ?_, fun hw hbuf => ?_, fun hw => ?_⟩
  · rw [decode_of_push hw, decode_of_push (hop.symm.trans hw)]
    simp only [bufField, sampleField, hbuf, hx]
  · rcases hw with hw | hw
    · rw [decode_of_init hw, decode_of_init (hop.symm.trans hw), bufField, bufField, hbuf]
    · rw [decode_of_avg hw, decode_of_avg (hop.symm.trans hw), bufField, bufField, hbuf]
  · rcases hw with hw | hw
    · rw [decode_of_start hw, decode_of_start (hop.symm.trans hw)]
    · rw [Machine.decode_of_read hw, Machine.decode_of_read (hop.symm.trans hw)]

/-- Settles O4: the decoder runs on each of the twelve words. -/
theorem exampleWordsDecode : Obligations.ExampleWordsDecode :=
  ⟨rfl, rfl, rfl, rfl, rfl, rfl, rfl, rfl, rfl, rfl, rfl, rfl⟩

/-! ## The assembler's words -/

/-- A field placed above all bits of a word is added to it. -/
theorem toNat_or_placeField {n lo : Nat} {y : Word} (hy : y.toNat < 2 ^ lo) (h : lo + n ≤ 32) (x : BitVec n) :
    (y ||| placeField x lo).toNat = y.toNat + 2 ^ lo * x.toNat := by
  have hx : 2 ^ lo * x.toNat < 2 ^ 32 := calc
    2 ^ lo * x.toNat < 2 ^ lo * 2 ^ n := Nat.mul_lt_mul_of_pos_left x.isLt (Nat.two_pow_pos lo)
    _ ≤ 2 ^ 32 := by rw [← Nat.pow_add]; exact Nat.pow_le_pow_right (by decide) h
  have hplace : (placeField x lo).toNat = 2 ^ lo * x.toNat := by
    have hn : x.toNat < 2 ^ 32 := Nat.lt_of_lt_of_le x.isLt (Nat.pow_le_pow_right (by decide) (by omega))
    rw [placeField, BitVec.toNat_shiftLeft, BitVec.toNat_setWidth, Nat.mod_eq_of_lt hn, Nat.shiftLeft_eq, Nat.mul_comm,
      Nat.mod_eq_of_lt hx]
  rw [BitVec.toNat_or, hplace, Nat.lor_comm, ← Nat.two_pow_add_eq_or_of_lt hy, Nat.add_comm]

/-- The word of three fields, as 30_encoding.md R92 writes it. -/
theorem packWord_eq (op : BitVec 4) (b : BitVec 2) (arg : Half) :
    packWord op b arg = BitVec.ofNat 32 (op.toNat + 16 * b.toNat + 65536 * arg.toNat) := by
  have := op.isLt
  have := b.isLt
  have := arg.isLt
  have hop : (placeField op 0).toNat = op.toNat := by
    simpa using toNat_or_placeField (y := 0) (lo := 0) (by decide) (by decide) op
  have hbuf : (placeField op 0 ||| placeField b 4).toNat = op.toNat + 2 ^ 4 * b.toNat := by
    rw [toNat_or_placeField (by omega) (by decide), hop]
  refine BitVec.eq_of_toNat_eq ?_
  rw [packWord, toNat_or_placeField (by omega) (by decide), hbuf, BitVec.toNat_ofNat]
  omega

/-- The same with the operands as numbers in range. -/
theorem packWord_ofNat (op : BitVec 4) {b x : Nat} (hb : b < 4) (hx : x < 65536) :
    packWord op (BufId.ofCode (BitVec.ofNat 2 b)).code (BitVec.ofNat 16 x) =
      BitVec.ofNat 32 (op.toNat + 16 * b + 65536 * x) := by
  rw [packWord_eq, BufId.code_ofCode, BitVec.toNat_ofNat, BitVec.toNat_ofNat, Nat.mod_eq_of_lt hb, Nat.mod_eq_of_lt hx]

/-- A line that names an instruction assembles to its word where its operands are in range, else to the error. -/
theorem AsmLine.assemble_eq {l : AsmLine} {i : Instr} {p : Prop} [Decidable p] {w : Word} (hi : l.instr = some i)
    (hp : l.wellFormed = true ↔ p) (hw : p → encode i = w) : l.assemble = if p then some w else none := by
  have hl : l.assemble = if l.wellFormed then l.instr.map encode else none := by
    cases l with
    | word w => cases hi
    | start | read | init b | push b x | atIndex b x | avg b | save b x | load b x => rfl
  simp only [hl, hi, hp]
  split
  · next h => exact congrArg some (hw h)
  · rfl

/-- Settles O5: the range test is `AsmLine.wellFormed`, and a packed word is the sum of its fields (`packWord_ofNat`). -/
theorem assemblerWordOrError : Obligations.AssemblerWordOrError := by
  intro b x i w
  have bufWord : ∀ op : BitVec 4, b < 4 →
      packWord op (BufId.ofCode (BitVec.ofNat 2 b)).code 0 = BitVec.ofNat 32 (op.toNat + 16 * b) :=
    fun op hb => packWord_ofNat op (x := 0) hb (by decide)
  have inRange : ∀ m : Nat, (decide (b < 4) && decide (i < m)) = true ↔ b < 4 ∧ i < m := fun m => by simp
  refine ⟨rfl, rfl, AsmLine.assemble_eq rfl decide_eq_true_iff (bufWord 3), ?_,
    AsmLine.assemble_eq rfl (inRange _) fun ⟨hb, hi⟩ => packWord_ofNat 5 hb hi,
    AsmLine.assemble_eq rfl decide_eq_true_iff (bufWord 6),
    AsmLine.assemble_eq rfl (inRange _) fun ⟨hb, hi⟩ => packWord_ofNat 7 hb hi,
    AsmLine.assemble_eq rfl (inRange _) fun ⟨hb, hi⟩ => packWord_ofNat 8 hb hi, ?_⟩
  · refine AsmLine.assemble_eq rfl (by simp [AsmLine.wellFormed]) fun ⟨hb, hx⟩ => ?_
    have harg : (BitVec.ofNat 8 x).setWidth 16 = BitVec.ofNat 16 x := by
      refine BitVec.eq_of_toNat_eq ?_
      simp only [BitVec.toNat_setWidth, BitVec.toNat_ofNat]
      omega
    rw [encode, harg]
    exact packWord_ofNat 4 hb (by omega)
  · simp [AsmLine.assemble, AsmLine.wellFormed]

end Sys2Proof
end

section
/-! The host's side of a clock edge (spec/30_encoding.md R93, R94): after any step the host goes on with what is left of
its action, given the register it read, and `bus_rdata` holds that read. -/

namespace Sys2Proof.Machine

/-! ## What every step does to the host's list and the read data -/

/-- Every step ends with `State.closeEdge`. -/
theorem step_closeEdge {s t : State} (h : step s = .next t) : ∃ u, t = s.closeEdge u := by
  obtain ⟨r, -, hs⟩ | ⟨-, -, hs⟩ | ⟨-, -, -, hs⟩ | ⟨-, -, -, i, -, hs⟩ | ⟨-, -, -, op, -, hs⟩ := step_cases s
  all_goals rw [hs] at h
  case inl => cases h
  case inr.inr.inr.inl =>
    obtain ⟨u, -, rfl⟩ := onNext_next h
    exact ⟨u, rfl⟩
  all_goals
    injection h with h
    exact ⟨_, h.symm⟩

theorem State.accessNow_cons {s : State} {op : HostOp} {ops : List HostOp} (hs : s.env.host = op :: ops) :
    s.accessNow = op.access := by
  rw [State.accessNow, hs]
  rfl

/-- After a step the host goes on with what is left of its action, given the read data. -/
theorem step_host {s t : State} {op : HostOp} {ops : List HostOp} (hs : s.env.host = op :: ops)
    (h : step s = .next t) : t.env.host = op.rest s.params ((s.readData op.access).getD 0) ++ ops := by
  obtain ⟨u, rfl⟩ := step_closeEdge h
  rw [State.closeEdge, State.accessNow_cons hs, State.hostAfter, hs]

theorem step_host_read {s t : State} {op : HostOp} {ops : List HostOp} {addr : BitVec 7} (hs : s.env.host = op :: ops)
    (ha : op.access = some (.read addr)) (h : step s = .next t) :
    t.env.host = op.rest s.params (s.readReg addr) ++ ops := by
  rw [step_host hs h, ha]
  rfl

theorem State.hostEdge_busRdata (s : State) : s.hostEdge.regs.busRdata = s.readData s.accessNow := by
  obtain ⟨hregs, -⟩ := s.hostEdge_eq_busEdge
  rw [hregs]
  rfl

/-- Without reset a step leaves the cycle's read data on `bus_rdata`: no command writes it. -/
theorem step_busRdata {s t : State} (hr : s.resetNow = false) (h : step s = .next t) :
    t.regs.busRdata = s.readData s.accessNow := by
  rw [← s.hostEdge_busRdata]
  obtain ⟨r, -, hs⟩ | ⟨-, hr', -⟩ | ⟨-, -, -, hs⟩ | ⟨-, -, -, i, -, hs⟩ | ⟨-, -, -, op, -, hs⟩ := step_cases s
  case inr.inl => exact absurd (hr.symm.trans hr') Bool.false_ne_true
  all_goals rw [hs] at h
  case inl => cases h
  case inr.inr.inr.inl =>
    obtain ⟨u, hu, rfl⟩ := onNext_next h
    obtain ⟨⟨-, -, ⟨-, -, -, -, hread⟩, -⟩, -⟩ := exec_engineFrame hu
    exact hread
  all_goals
    injection h with h
    rw [← h]
    rfl

/-! ## `wait` -/

/-- What is left of `wait` after a read of STATUS (10_state.md R24). -/
theorem HostOp.rest_wait (p : Params) (s : State) :
    HostOp.wait.rest p (s.readReg 0x08) = if s.regs.busy then [.wait] else [] := by
  obtain ⟨hbusy, -⟩ := statusRegisterLayout s 0x08 rfl
  rw [HostOp.rest, hbusy]

/-- Settles O52: the read data is STATUS (`step_busRdata`), whose BUSY decides what is left of `wait`. -/
theorem hostWaitsForCompletion : Obligations.HostWaitsForCompletion := by
  intro s t ops hs h
  have ha : s.accessNow = some (.read 0x08) := State.accessNow_cons hs
  refine ⟨by rw [step_busRdata (by simp [State.resetNow, hs]) h, ha, State.readData], ?_⟩
  rw [step_host_read hs rfl h, HostOp.rest_wait]
  split <;> rfl

/-! ## The pseudo-instructions -/

/-- What is left of `push_reading` after its read of READING (10_state.md R33). -/
theorem HostOp.rest_pushReading (p : Params) (s : State) :
    HostOp.pushReading.rest p (s.readReg 0x18) = pushReadingOps s.regs.reading.hum s.regs.reading.temp := by
  obtain ⟨-, -, hreading, -⟩ := resultAndFrameRegisterLayout s 0x18
  obtain ⟨hhum, htemp, -⟩ := hreading rfl
  rw [HostOp.rest, hhum, htemp]

/-- What is left of a chain after its read of RESULT (10_state.md R34). -/
theorem HostOp.rest_chainNext (p : Params) (s : State) (ld : Bool) (b : BufId) (o : Nat) :
    (HostOp.chainNext ld b o).rest p (s.readReg 0x14) =
      if s.regs.result.valid then
        (nextBuffer b).toList.map fun b' => .chain ld b' (o + s.regs.result.value.toNat)
      else [] := by
  obtain ⟨-, hresult, -⟩ := resultAndFrameRegisterLayout s 0x14
  obtain ⟨hvalue, -, hvalid⟩ := hresult rfl
  rw [HostOp.rest, hvalue, hvalid]
  cases nextBuffer b <;> rfl

/-- A block of `save_all` or `load_all` with a 16-bit offset: the host writes its command word, waits, and then reads
RESULT. -/
theorem step_chain {s t : State} {ld : Bool} {b : BufId} {o : Nat} {ops : List HostOp}
    (hs : s.env.host = .chain ld b o :: ops) (ho : o < 65536) (h : step s = .next t) :
    s.writesNow 3 = some (encode (if ld then .load b (BitVec.ofNat 16 o) else .save b (BitVec.ofNat 16 o))) ∧
      t.env.host = .wait :: .chainNext ld b o :: ops := by
  refine ⟨?_, by rw [step_host hs h, HostOp.rest, if_pos ho]; rfl⟩
  rw [State.writesNow, State.accessNow_cons hs, HostOp.access, if_pos ho]
  rfl

/-- Settles O53: the lists are the named ones, and each chain's and `push_reading`'s next actions are what is left of
the action after its read (`step_host_read`). -/
theorem pseudoInstructionsFollowWhatTheyRead : Obligations.PseudoInstructionsFollowWhatTheyRead := by
  refine ⟨rfl, rfl, fun _ => ⟨rfl, rfl⟩, fun s t ops h => ⟨fun hs => ?_, fun ld b o hs => ?_,
    fun b o hs ho => step_chain hs ho h, fun b o hs ho => step_chain hs ho h⟩⟩
  · refine ⟨State.accessNow_cons hs, ?_⟩
    rw [step_host_read hs rfl h, HostOp.rest_pushReading]
    rfl
  · refine ⟨State.accessNow_cons hs, ?_⟩
    rw [step_host_read hs rfl h, HostOp.rest_chainNext]
    cases s.regs.result.valid with
    | false => rfl
    | true => cases b <;> rfl

end Sys2Proof.Machine
end

section
/-! One clock edge of the bus and the command engine (spec/40_command_engine.md R100 to R105, R109 to R113): the host's
part of an edge is an acceptance and what the host makes of its own registers, the engine's part adds a completion's
DONE, and the edge of an access that only reads or drops a word is that of an idle cycle. -/

namespace Sys2Proof.Machine

/-! ## The host's part of an edge -/

theorem State.writesNow_of_write {s : State} {addr : BitVec 7} {d : Word} (h : s.accessNow = some (.write addr d))
    (r : Nat) : s.writesNow r = if (addr.extractLsb' 2 5).toNat = r then some d else none := by
  rw [State.writesNow, h]

/-- A cycle has one access, which writes one register. -/
theorem State.writesNow_other {s : State} {r q : Nat} {d : Word} (h : s.writesNow r = some d) (hq : r ≠ q) :
    s.writesNow q = none := by
  obtain ⟨addr, ha, rfl⟩ := State.accessNow_of_writesNow h
  rw [State.writesNow_of_write ha, if_neg hq]

/-- The state with the word accepted that the host writes to CMD in this cycle, if it does and none is in progress
(40_command_engine.md R102, R103). -/
def State.acceptNow (s : State) : State := if s.regs.busy then s else ((s.writesNow 3).map s.accept).getD s

/-- The host's side of the state after the host's part of an edge (40_command_engine.md R100, R101, R103, R109 to
R111). -/
def State.writtenView (s : State) : HostView where
  ie     := ((s.writesNow 1).map fun d => d.getLsbD 0).getD s.regs.ie
  done   := s.regs.done && !s.clearsNow 1
  drop   := (s.regs.busy && (s.writesNow 3).isSome) || (s.regs.drop && !s.clearsNow 2)
  budget := ((s.writesNow 4).map budgetOf).getD s.regs.budget
  rdata  := s.readData s.accessNow
  host   := s.env.host

/-- The medium after the host's part of an edge: the byte another agent writes is forgotten (20_memory.md R69). -/
def State.mediumNow (s : State) : Memory :=
  match s.env.host.head? with
  | some (.medium a) => Memory.erase s.storage a.toNat
  | _ => s.storage

theorem State.acceptNow_of_busy {s : State} (h : s.regs.busy = true) : s.acceptNow = s := by
  rw [State.acceptNow, if_pos h]

theorem State.acceptNow_of_no_cmd {s : State} (h : s.writesNow 3 = none) : s.acceptNow = s := by
  simp [State.acceptNow, h]

theorem State.acceptNow_of_cmd {s : State} {w : Word} (h : s.writesNow 3 = some w) (hb : s.regs.busy = false) :
    s.acceptNow = s.accept w := by
  simp [State.acceptNow, h, hb]

theorem State.mediumNow_of_medium {s : State} {a : Half} (h : s.env.host.head? = some (.medium a)) :
    s.mediumNow = Memory.erase s.storage a.toNat := by
  rw [State.mediumNow, h]

theorem State.mediumNow_of_no_medium {s : State} (h : ∀ a, s.env.host.head? ≠ some (.medium a)) :
    s.mediumNow = s.storage := by
  unfold State.mediumNow
  split
  · next a ha => exact absurd ha (h a)
  · rfl

/-- Another agent's write to the medium is no access of the host. -/
theorem State.mediumNow_of_write {s : State} {r : Nat} {d : Word} (h : s.writesNow r = some d) :
    s.mediumNow = s.storage := by
  obtain ⟨addr, ha, -⟩ := State.accessNow_of_writesNow h
  refine State.mediumNow_of_no_medium fun a hm => ?_
  rw [State.accessNow, hm] at ha
  cases ha

theorem State.withHost_writtenView_of_no_write {s : State} (hctrl : s.writesNow 1 = none)
    (hstatus : s.writesNow 2 = none) (hcmd : s.writesNow 3 = none) (hbudget : s.writesNow 4 = none) :
    s.acceptNow.withHost s.writtenView = s.withHost { s.hostView with rdata := s.readData s.accessNow } := by
  rw [State.acceptNow_of_no_cmd hcmd]
  simp [State.writtenView, State.hostView, State.clearsNow, hctrl, hstatus, hcmd, hbudget]

/-- The bus's part of an edge, for every access: an acceptance, and the host's side. -/
theorem State.busEdge_accessNow (s : State) : s.busEdge s.accessNow = s.acceptNow.withHost s.writtenView := by
  cases ha : s.accessNow with
  | none =>
    have hw : ∀ r, s.writesNow r = none := fun r => by rw [State.writesNow, ha]
    rw [State.withHost_writtenView_of_no_write (hw 1) (hw 2) (hw 3) (hw 4), ha]
    rfl
  | some a =>
    cases a with
    | read addr =>
      have hw : ∀ r, s.writesNow r = none := fun r => by rw [State.writesNow, ha]
      rw [State.withHost_writtenView_of_no_write (hw 1) (hw 2) (hw 3) (hw 4), ha]
      rfl
    | write addr d =>
      have hw := State.writesNow_of_write ha
      unfold State.busEdge
      dsimp only
      unfold State.writeReg
      generalize (addr.extractLsb' 2 5).toNat = n at hw ⊢
      split
      case h_5 hctrl hstatus hcmd hbudget =>
        have hno : ∀ {r}, (n = r → False) → s.writesNow r = none := fun hr => by rw [hw, if_neg hr]
        rw [State.withHost_writtenView_of_no_write (hno hctrl) (hno hstatus) (hno hcmd) (hno hbudget), ha]
        rfl
      case h_3 =>
        cases hb : s.regs.busy <;>
          simp [hw, ha, hb, State.acceptNow, State.writtenView, State.clearsNow, State.readData, State.withHost,
            State.dropCommand, State.accept]
      all_goals
        simp [hw, ha, State.acceptNow, State.writtenView, State.clearsNow, State.readData, State.withHost, Regs.w1c]

/-- The host's part of an edge: an acceptance, the host's side, and the medium. -/
theorem State.hostEdge_eq (s : State) :
    s.hostEdge = { s.acceptNow.withHost s.writtenView with storage := s.mediumNow } := by
  have hst : (s.busEdge s.accessNow).storage = s.storage := by
    obtain ⟨-, -, -, -, hst, -⟩ := s.busEdge_frame s.accessNow
    exact hst
  rw [← State.busEdge_accessNow]
  unfold State.hostEdge
  dsimp only
  split
  · next a hm => rw [State.mediumNow_of_medium hm, hst]
  · next hm => rw [State.mediumNow_of_no_medium hm, ← hst]

/-! ## The host's registers after an edge -/

/-- The engine's part of an edge leaves the host's registers, but a completion sets DONE (40_command_engine.md R106):
the engine does not see them (`State.engineEdge_withHost`, with the state's own host side put in). -/
theorem State.engineEdge_hostRegs {s u : State} (h : s.engineEdge = .next u) :
    u.regs.ie = s.regs.ie ∧ u.regs.drop = s.regs.drop ∧ u.regs.budget = s.regs.budget ∧
      u.regs.done = ((s.regs.busy && !u.regs.busy) || s.regs.done) := by
  have hself : u = u.withHost (s.hostView.after s u) := by
    have := s.engineEdge_withHost s.hostView
    rw [show s.withHost s.hostView = s from rfl, h] at this
    injection this
  exact ⟨congrArg (·.regs.ie) hself, congrArg (·.regs.drop) hself, congrArg (·.regs.budget) hself,
    congrArg (·.regs.done) hself⟩

/-- A step without reset ends the engine's part of the edge, or without a command in progress the host's. -/
theorem step_next {s t : State} (h : step s = .next t) (hr : s.resetNow = false) :
    (s.regs.busy = false ∧ t = s.closeEdge s.hostEdge) ∨
    (s.regs.busy = true ∧ ∃ u, s.hostEdge.engineEdge = .next u ∧ t = s.closeEdge u) := by
  cases hn : s.noMove with
  | some r =>
    rw [step_of_noMove hn] at h
    cases h
  | none =>
    cases hb : s.regs.busy with
    | false =>
      rw [step_of_idle hn hr hb] at h
      injection h with h
      exact .inl ⟨rfl, h.symm⟩
    | true =>
      obtain ⟨heng, hb'⟩ := State.hostEdge_busy hb
      rw [step_eq_engineEdge hn hr (hb'.trans hb.symm) (congrArg Engine.cmd heng)] at h
      exact .inr ⟨rfl, onNext_next h⟩

/-- The host's registers after an edge without reset, by the accesses of its cycle; DONE is also set by a completion. -/
theorem step_hostRegs {s t : State} (h : step s = .next t) (hr : s.resetNow = false) :
    t.regs.ie = s.writtenView.ie ∧ t.regs.drop = s.writtenView.drop ∧ t.regs.budget = s.writtenView.budget ∧
      t.regs.done = ((s.regs.busy && !t.regs.busy) || s.writtenView.done) := by
  obtain ⟨hb, rfl⟩ | ⟨hb, u, hu, rfl⟩ := step_next h hr
  · rw [closeEdge_regs, State.hostEdge_eq, hb]
    exact ⟨rfl, rfl, rfl, rfl⟩
  · obtain ⟨hie, hdrop, hbudget, hdone⟩ := State.engineEdge_hostRegs hu
    obtain ⟨-, hb'⟩ := State.hostEdge_busy hb
    rw [hb'] at hdone
    rw [State.hostEdge_eq] at hie hdrop hbudget hdone
    rw [closeEdge_regs, hb]
    exact ⟨hie, hdrop, hbudget, hdone⟩

/-- Settles O10: after a step without reset DONE and DROP are the written ones, or set (`step_hostRegs`). -/
theorem settingWinsOverClearing : Obligations.SettingWinsOverClearing := by
  intro s t h hr
  obtain ⟨-, hdrop, -, hdone⟩ := step_hostRegs h hr
  rw [hdrop, hdone]
  constructor
  · simp [State.writtenView]
  · simp [State.writtenView]

/-- Settles O12: `irq` is read from the state, and IE is the written one (`step_hostRegs`). -/
theorem interruptFollowsDoneAndEnable : Obligations.InterruptFollowsDoneAndEnable := by
  intro s t h
  have hirq : t.irq = true ↔ t.regs.done = true ∧ t.regs.ie = true := by simp [State.irq]
  refine ⟨hirq, fun d hr hd => ?_, fun hr hd => ?_⟩
  · obtain ⟨hie, -⟩ := step_hostRegs h hr
    have hie' : t.regs.ie = d.getLsbD 0 := by simp [hie, State.writtenView, hd]
    exact ⟨hie', hie' ▸ hirq⟩
  · obtain ⟨hie, -⟩ := step_hostRegs h hr
    simp [hie, State.writtenView, hd]

/-! ## The copied budget of a READ -/

theorem State.lowPoll_budget (s : State) (t : Nat) (v : Bool) : (s.lowPoll t v).dec.budget = s.dec.budget := by
  obtain ⟨-, h⟩ | ⟨-, -, h⟩ | ⟨-, -, h⟩ := s.lowPoll_cases t v
  all_goals rw [h]; rfl

theorem State.highPoll_budget (s : State) (t : Nat) (v : Bool) : (s.highPoll t v).dec.budget = s.dec.budget := by
  cases v
  · rw [State.highPoll_false]
    split
    · exact State.lowPoll_budget _ _ _
    · rfl
  · rw [State.highPoll_true]
    split <;> rfl

theorem State.readTick_budget (s : State) (t : Nat) : (s.readTick t).dec.budget = s.dec.budget := by
  unfold State.readTick
  split
  case h_1 | h_2 | h_3 => split_ifs <;> rfl
  case h_4 =>
    split
    · exact State.lowPoll_budget _ _ _
    · rfl
  case h_5 => exact State.lowPoll_budget _ _ _
  case h_6 =>
    split
    · exact State.highPoll_budget _ _ _
    · rfl
  case h_7 => exact State.highPoll_budget _ _ _
  case h_8 => rfl

theorem execRead_budget {s t : State} (h : execRead s = .next t) : t.dec.budget = s.dec.budget := by
  obtain ⟨-, rfl⟩ | ⟨-, ⟨e, -, rfl⟩ | ⟨-, rfl⟩⟩ := execRead_next h
  · rfl
  · unfold State.readFinish
    dsimp only
    split <;> rfl
  · unfold State.readClock
    split
    · rfl
    · exact State.readTick_budget _ _

/-- No command writes the copied budget: only acceptance does (41_decoder.md R123). -/
theorem exec_budget {i : Instr} {s t : State} (h : exec i s = .next t) : t.dec.budget = s.dec.budget := by
  by_cases hread : i = .read
  · subst hread
    exact execRead_budget h
  by_cases hstart : i = .start
  · subst hstart
    injection h with h
    subst h
    rfl
  obtain ⟨-, ⟨-, hdec, -⟩, -⟩ := exec_leavesAllBut h hstart hread
  rw [hdec]

theorem State.engineEdge_budget {s u : State} (h : s.engineEdge = .next u) : u.dec.budget = s.dec.budget := by
  unfold State.engineEdge at h
  split at h
  · split at h
    · exact exec_budget h
    · injection h with h
      subst h
      rfl
  · injection h with h
    rw [h]

/-- Without reset only the acceptance of a READ writes the copied budget. -/
theorem step_dec_budget {s t : State} (h : step s = .next t) (hr : s.resetNow = false) :
    t.dec.budget = s.acceptNow.dec.budget := by
  have hhost : s.hostEdge.dec = s.acceptNow.dec := by
    rw [State.hostEdge_eq]
    rfl
  rw [← hhost]
  obtain ⟨-, rfl⟩ | ⟨-, u, hu, rfl⟩ := step_next h hr
  · rfl
  · show u.dec.budget = _
    exact State.engineEdge_budget hu

theorem budgetOf_ne_zero (d : Word) : budgetOf d ≠ 0 := by
  unfold budgetOf
  split
  · decide
  · next h => exact h

/-- Settles O11: BUDGET is the written one (`step_hostRegs`), and a write to POLL_BUDGET accepts no READ, so that the
copy stays (`step_dec_budget`). -/
theorem pollBudgetWriteStoresLegalValue : Obligations.PollBudgetWriteStoresLegalValue := by
  intro s t d h hr hd
  obtain ⟨-, -, hbudget, -⟩ := step_hostRegs h hr
  have hb : t.regs.budget = budgetOf d := by simp [hbudget, State.writtenView, hd]
  refine ⟨hb, hb ▸ budgetOf_ne_zero d, ?_⟩
  rw [step_dec_budget h hr, State.acceptNow_of_no_cmd (State.writesNow_other hd (by decide))]

/-! ## Acceptance -/

theorem opField_of_decode_read {w : Word} (h : decode w = .instr .read) : opField w = 2#4 := by
  unfold decode at h
  split at h
  case h_2 hop => exact BitVec.eq_of_toNat_eq hop
  all_goals cases h

/-- Settles O7: the host's part of the edge is the acceptance (`State.hostEdge_eq`), which leaves the registers of
`State.hostEdge_accept` and everything it does not name; the state it leads to has a command in progress. -/
theorem commandWriteIsAccepted : Obligations.CommandWriteIsAccepted := by
  intro s w hn hw hr hb
  obtain ⟨hregs, heng⟩ := State.hostEdge_accept hw hb
  have hedge := s.hostEdge_eq
  rw [State.acceptNow_of_cmd hw hb, State.mediumNow_of_write hw] at hedge
  have hbudget : decode w = .instr .read → s.hostEdge.dec.budget = s.regs.budget := fun hd => by
    rw [hedge]
    exact if_pos (opField_of_decode_read hd)
  refine ⟨_, step_of_idle hn hr hb, ?_⟩
  rw [closeEdge_regs, closeEdge_eng, closeEdge_bufs, closeEdge_pin, closeEdge_port, closeEdge_storage, hregs, heng]
  refine ⟨rfl, rfl, rfl, rfl, rfl, rfl, rfl, hbudget, ?_, ?_, ?_, ?_, rfl, rfl, rfl, rfl, rfl, rfl,
    fun i hd hn' hr' => step_of_instr hn' hr' ?_ ?_⟩
  · rw [hedge]; rfl
  · rw [hedge]; rfl
  · rw [hedge]; rfl
  · rw [hedge]
  · rw [closeEdge_regs, hregs]; rfl
  · rw [closeEdge_eng, heng]; exact hd

/-! ## The illegal command -/

theorem step_of_illegal {s : State} {op : BitVec 4} (hn : s.noMove = none) (hr : s.resetNow = false)
    (hb : s.regs.busy = true) (hd : decode s.eng.cmd = .illegal op) :
    step s = .next (s.closeEdge s.hostEdge.execIllegal) := by
  simp [step, hn, hr, hb, hd]

/-- Settles O17: the word decodes to ILLEGAL (`decode_of_illegal`), whose engine step is a completion, and with a
command in progress the host's part of the edge writes its own side alone (`State.hostEdge_eq`). -/
theorem illegalCommandCompletes : Obligations.IllegalCommandCompletes := by
  intro s hn hr hb hop
  have hedge := s.hostEdge_eq
  rw [State.acceptNow_of_busy hb] at hedge
  refine ⟨_, step_of_illegal hn hr hb (decode_of_illegal hop), ?_⟩
  rw [hedge]
  refine ⟨⟨rfl, rfl, rfl, rfl⟩, rfl, rfl, rfl, rfl, rfl, rfl, rfl, rfl, fun hm a => ?_⟩
  exact congrArg (Memory.read · a) (State.mediumNow_of_no_medium hm)

/-! ## What the host changes during a command -/

/-- Settles O18: the engine's steps of a state with two host sides go side by side (`exec_alike`), to states that differ
in the host's side alone. -/
theorem hostRegistersDoNotReachTheCommand : Obligations.HostRegistersDoNotReachTheCommand := by
  intro i s t ie dn dp bg rd h
  have halike := exec_alike i s
    { ie := ie, done := dn, drop := dp, budget := bg, rdata := rd, host := s.env.host }
  rw [h] at halike
  unfold State.withHost at halike
  generalize exec i _ = o at halike ⊢
  cases halike with
  | goesOn ht => exact ⟨_, rfl, by simp [State.withHost]⟩
  | completes u e r => exact ⟨_, rfl, by simp [State.withHost]⟩

/-! ## A bus access that shows in the host's side alone -/

section
variable {s : State} {a : Access} {ops : List HostOp} (hs : s.env.host = .bus a :: ops)
include hs

theorem State.noMove_idleFirst_of_access : (s.idleFirst ops).noMove = s.noMove := by
  rw [State.noMove, State.noMove, hs]
  rfl

/-- The edge with an idle cycle in place of the access is the engine's part, with DONE set by a completion. -/
theorem step_idleFirst (hn : s.noMove = none) :
    step (s.idleFirst ops) = onNext (fun t => s.closeEdge (t.withHost (s.quietView.after s t))) s.engineEdge := by
  have hclose : ∀ t, (s.idleFirst ops).closeEdge t = s.closeEdge t := fun t => by
    simp [State.closeEdge, State.hostAfter, State.idleFirst, hs, HostOp.rest, State.syncAfter, State.levelNow]
  have hidle : s.idleFirst ops = s.withHost { s.hostView with host := .delay 1 :: ops } := rfl
  rw [step_of_hostEdge_view (s := s.idleFirst ops) (v := (s.idleFirst ops).quietView)
    ((State.noMove_idleFirst_of_access hs).trans hn) rfl rfl]
  simp only [hclose]
  rw [hidle, State.engineEdge_withHost]
  cases s.engineEdge <;> rfl

/-- Where the edge with an idle cycle leads to `t`, the edge with an access that makes the host's part change the host's
side alone leads to a state that differs from `t` by that side alone. -/
theorem step_of_access {v : HostView} {t : State} (he : s.hostEdge = s.withHost v)
    (ht : step (s.idleFirst ops) = .next t) :
    step s = .next (t.withHost { v.after s t with host := t.env.host }) ∧
      t = t.withHost { s.quietView.after s t with host := t.env.host } := by
  cases hn : s.noMove with
  | some r =>
    rw [step_of_noMove ((State.noMove_idleFirst_of_access hs).trans hn)] at ht
    cases ht
  | none =>
    rw [step_idleFirst hs hn] at ht
    obtain ⟨u, hu, rfl⟩ := onNext_next ht
    rw [step_of_hostEdge_view hn (by simp [State.resetNow, hs]) he, hu]
    exact ⟨rfl, rfl⟩

end

/-- A read makes the host's part of the edge change the read data alone. -/
theorem State.hostEdge_of_read {s : State} {addr : BitVec 7} {ops : List HostOp}
    (hs : s.env.host = .bus (.read addr) :: ops) :
    s.hostEdge = s.withHost { s.hostView with rdata := some (s.readReg addr) } := by
  have hnow : s.accessNow = some (.read addr) := State.accessNow_cons hs
  rw [State.hostEdge, hnow, hs]
  rfl

/-- Settles O9: a read makes the host's part of the edge write the read data alone (`State.hostEdge_of_read`), which the
engine does not see (`step_of_access`). -/
theorem readAccessHasNoSideEffect : Obligations.ReadAccessHasNoSideEffect := by
  intro s addr ops hs t ht
  obtain ⟨h, hq⟩ := step_of_access hs (State.hostEdge_of_read hs) ht
  rw [h, hq]
  rfl

/-- Settles O8: with a command in progress a write to CMD makes the host's part of the edge set DROP alone. -/
theorem commandWriteWhileBusyIsDropped : Obligations.CommandWriteWhileBusyIsDropped := by
  intro s addr w ops hs ha hb t ht
  have hw : s.writeReg addr w = s.withHost { s.hostView with drop := true } := by
    rw [State.writeReg, ha]
    exact if_pos hb
  obtain ⟨h, hq⟩ := step_of_register_write hs hw ht
  rw [h, hq]
  rfl

end Sys2Proof.Machine
end

section
/-! One clock edge of START and READ (spec/41_decoder.md R120 to R137): the kinds of edge of a READ, each by its
condition, and what a tick does in each phase. The handshake, the polls, the bit sample, the checksum and `finish`
follow. -/

namespace Sys2Proof.Machine

/-! ## The kinds of edge of a READ -/

theorem execRead_of_finish {s : State} {e : Err} (hs : s.eng.started = true) (hp : s.dec.phase = .finish e) :
    execRead s = .next (s.readFinish e) := by
  simp [execRead, hs, hp]

theorem execRead_of_undecided {s : State} (hs : s.eng.started = true) (hp : ∀ e, s.dec.phase ≠ .finish e) :
    execRead s = .next s.readClock := by
  unfold execRead
  rw [if_pos hs]
  split
  · next e he => exact absurd he (hp e)
  · rfl

/-- The time base at a tick (41_decoder.md R120). -/
def State.countTick (s : State) : State := { s with dec := { s.dec with now := s.dec.now + 1, presc := 0 } }

section
variable (s : State)

@[simp] theorem State.countTick_regs : s.countTick.regs = s.regs := rfl
@[simp] theorem State.countTick_pin : s.countTick.pin = s.pin := rfl
@[simp] theorem State.countTick_dec : s.countTick.dec = { s.dec with now := s.dec.now + 1, presc := 0 } := rfl
@[simp] theorem State.countTick_sample : s.countTick.sample = s.sample := rfl

end

theorem State.readClock_between {s : State} (h : s.dec.presc + 1 < s.params.cycPerUs) :
    s.readClock = { s with dec := { s.dec with presc := s.dec.presc + 1 } } := if_pos h

theorem State.readClock_tick {s : State} (h : s.params.cycPerUs ≤ s.dec.presc + 1) :
    s.readClock = s.countTick.readTick (s.dec.now + 1) := if_neg (Nat.not_lt.mpr h)

/-- The edge of a tick at which the READ is not yet decided. -/
theorem exec_read_atTick {s : State} {n : Nat} (h : s.atTick n) (hp : ∀ e, s.dec.phase ≠ .finish e) :
    exec .read s = .next (s.countTick.readTick n) := by
  obtain ⟨hs, hpresc, rfl⟩ := h
  rw [← State.readClock_tick hpresc.ge]
  exact execRead_of_undecided hs hp

/-! ## A tick, phase by phase -/

/-- The tick a phase waits for, where it waits for one. -/
def ReadPhase.waitsFor (p : Params) : ReadPhase → Option Nat
  | .release => some p.p1
  | .input => some p.p2
  | .ackLow => some p.p3
  | .ackHigh => some p.p4
  | .settle wake => some wake
  | .low | .high | .finish _ => none

/-- Before the tick its phase waits for, a READ does nothing. -/
theorem State.readTick_of_lt {s : State} {t m : Nat} (h : s.dec.phase.waitsFor s.params = some m) (ht : t < m) :
    s.readTick t = s := by
  unfold State.readTick
  cases hp : s.dec.phase with
  | release | input | ackLow | ackHigh | settle wake =>
    rw [hp] at h
    injection h with h
    exact if_neg (by omega)
  | low | high | finish e => simp [hp, ReadPhase.waitsFor] at h

section
variable (s : State) {t : Nat}

theorem State.readTick_release (h : s.dec.phase = .release) (ht : s.params.p1 ≤ t) :
    s.readTick t = (s.drive false s.pin.out).setPhase .input := by
  rw [State.readTick, h]
  exact if_pos ht

theorem State.readTick_input (h : s.dec.phase = .input) (ht : s.params.p2 ≤ t) :
    s.readTick t = if s.sample then s.decideRead .noAckLow else (s.setDState .ackLowSeen).setPhase .ackLow := by
  rw [State.readTick, h]
  exact if_pos ht

theorem State.readTick_ackLow (h : s.dec.phase = .ackLow) (ht : s.params.p3 ≤ t) :
    s.readTick t = if s.sample then (s.setDState .ackHighSeen).setPhase .ackHigh else s.decideRead .noAckHigh := by
  rw [State.readTick, h]
  exact if_pos ht

theorem State.readTick_ackHigh (h : s.dec.phase = .ackHigh) (ht : s.params.p4 ≤ t) :
    s.readTick t = ((s.setDState .rxBits).setPolls 1).lowPoll t s.sample := by
  rw [State.readTick, h]
  exact if_pos ht

theorem State.readTick_low (h : s.dec.phase = .low) :
    s.readTick t = (s.setPolls (s.dec.polls + 1)).lowPoll t s.sample := by
  rw [State.readTick, h]

theorem State.readTick_settle {wake : Nat} (h : s.dec.phase = .settle wake) (ht : wake ≤ t) :
    s.readTick t = s.bitSample t s.sample := by
  rw [State.readTick, h]
  exact if_pos ht

theorem State.readTick_high (h : s.dec.phase = .high) :
    s.readTick t = (s.setPolls (s.dec.polls + 1)).highPoll t s.sample := by
  rw [State.readTick, h]

end

/-! ## A poll -/

/-- The phase after poll number `polls` of a low phase has read `v` (41_decoder.md R128, R129). -/
def lowPhase (polls budget wake : Nat) (v : Bool) : ReadPhase :=
  if v then .settle wake else if polls = budget then .finish .bitTimeout else .low

/-- The phase after poll number `polls` of a high phase has read 1 (41_decoder.md R128, R131). -/
def highPhase (polls budget : Nat) : ReadPhase := if polls = budget then .finish .bitTimeout else .high

/-- The bit sample `v` in its place in the frame, NBITS counted (41_decoder.md R130). -/
def State.takeBit (s : State) (v : Bool) : State :=
  { s with
    regs := { s.regs with frame := s.regs.frame.setBit s.dec.bit v, nbits := BitVec.ofNat 6 (s.dec.bit + 1) },
    dec := { s.dec with polls := 1 } }

/-- The next bit, its first poll counted (41_decoder.md R131). -/
def State.endBit (s : State) : State := { s with dec := { s.dec with bit := s.dec.bit + 1, polls := 1 } }

section
variable (s : State) (t : Nat) (v : Bool)

@[simp] theorem State.takeBit_regs : (s.takeBit v).regs =
    { s.regs with frame := s.regs.frame.setBit s.dec.bit v, nbits := BitVec.ofNat 6 (s.dec.bit + 1) } := rfl
@[simp] theorem State.takeBit_dec : (s.takeBit v).dec = { s.dec with polls := 1 } := rfl
@[simp] theorem State.endBit_regs : s.endBit.regs = s.regs := rfl

theorem State.lowPoll_eq :
    s.lowPoll t v = s.setPhase (lowPhase s.dec.polls s.dec.budget.toNat (t + s.params.tSettle) v) := by
  unfold State.lowPoll lowPhase
  split_ifs <;> rfl

theorem State.highPoll_one : s.highPoll t true = s.setPhase (highPhase s.dec.polls s.dec.budget.toNat) := by
  rw [State.highPoll_true, highPhase]
  split_ifs <;> rfl

theorem State.bitSample_eq : s.bitSample t v = (s.takeBit v).highPoll t v := rfl

end

/-- A 0 ends a bit that is not the last, and is the first low poll of the next. -/
theorem State.highPoll_zero {s : State} (t : Nat) (h : s.dec.bit < 39) :
    s.highPoll t false =
      s.endBit.setPhase (lowPhase 1 s.dec.budget.toNat (t + s.params.tSettle) false) := by
  rw [State.highPoll_false, if_pos (by omega), State.lowPoll_eq]
  rfl

/-- A 0 ends bit 39, and the checksum decides (41_decoder.md R134). -/
theorem State.highPoll_last {s : State} (t : Nat) (h : 39 ≤ s.dec.bit) :
    s.highPoll t false = s.endBit.decideRead (if s.regs.frame.sumOk then .ok else .checksum) := by
  rw [State.highPoll_false, if_neg (by omega), State.endBit]

/-- A legal budget allows a poll (10_state.md R35). -/
theorem one_le_budget {b : Half} (h : b ≠ 0) : 1 ≤ b.toNat := Nat.pos_of_ne_zero fun h0 => h (BitVec.eq_of_toNat_eq h0)

/-- With a budget of 1 the first poll is the last (41_decoder.md R139). -/
theorem one_eq_budget_iff (b : Half) : 1 = b.toNat ↔ b = 1 := by
  rw [eq_comm, ← BitVec.toNat_inj]
  rfl

theorem lowPhase_one_false (b : Half) (wake : Nat) :
    lowPhase 1 b.toNat wake false = if b = 1 then .finish .bitTimeout else .low := by
  simp only [lowPhase, one_eq_budget_iff, Bool.false_eq_true, if_false]

theorem highPhase_one (b : Half) : highPhase 1 b.toNat = if b = 1 then .finish .bitTimeout else .high := by
  simp only [highPhase, one_eq_budget_iff]

/-- A tick of READ writes no part of the decoder but the bit, the poll count and the phase. -/
theorem State.readTick_dec (s : State) (t : Nat) :
    ∃ i k p, (s.readTick t).dec = { s.dec with bit := i, polls := k, phase := p } := by
  have low : ∀ (u : State) v, ∃ i k p, (u.lowPoll t v).dec = { u.dec with bit := i, polls := k, phase := p } :=
    fun u v => ⟨_, _, _, by rw [State.lowPoll_eq]; rfl⟩
  have high : ∀ (u : State) v, ∃ i k p, (u.highPoll t v).dec = { u.dec with bit := i, polls := k, phase := p } := by
    intro u v
    cases v with
    | true => exact ⟨_, _, _, by rw [State.highPoll_one]; rfl⟩
    | false =>
      rw [State.highPoll_false]
      split
      · exact low _ _
      · exact ⟨_, _, _, rfl⟩
  unfold State.readTick
  split
  case h_1 | h_2 | h_3 => split_ifs <;> exact ⟨_, _, _, rfl⟩
  case h_4 =>
    split
    · exact low _ _
    · exact ⟨_, _, _, rfl⟩
  case h_5 => exact low _ _
  case h_6 =>
    split
    · exact high (s.takeBit s.sample) _
    · exact ⟨_, _, _, rfl⟩
  case h_7 => exact high _ _
  case h_8 => exact ⟨_, _, _, rfl⟩

/-! ## START, tick 0 and the time base -/

/-- Settles O22: START's one edge writes the pin, DSTATE and the completion; the example's word decodes to START. -/
theorem startDrivesTheBusLow : Obligations.StartDrivesTheBusLow := by
  refine ⟨fun s => ⟨_, rfl, rfl, rfl, ⟨rfl, rfl, rfl, rfl⟩, ⟨rfl, rfl, rfl, rfl, rfl⟩, rfl, rfl, rfl, rfl, rfl,
    fun _ => ⟨rfl, rfl, rfl⟩, fun _ _ => rfl, fun _ => rfl⟩, fun p hp => ?_⟩
  have hn : ((State.resetWith p).withFetchWord 32 0x00000001).noMove = none := if_pos hp
  refine ⟨_, step_of_instr (i := .start) hn rfl rfl rfl, ?_, rfl⟩
  show placeField (BitVec.ofBool false) 0 ||| placeField (BitVec.ofBool true) 1 |||
    placeField (BitVec.ofBool false) 2 ||| placeField Err.ok.code 4 ||| placeField DState.started.code 8 ||| placeField (opField 0x00000001) 12 = 0x00001102
  decide

/-- Settles O23: the first edge of a READ is its tick 0, `State.readBegin`. -/
theorem readBeginsAtTickZero : Obligations.ReadBeginsAtTickZero := by
  intro s hs
  exact ⟨_, execRead_of_not_started hs, rfl, rfl, rfl, rfl, rfl, rfl, rfl, rfl, rfl, rfl, rfl, rfl⟩

/-- Settles O24: the two kinds of edge of the READ's clock; what a tick does leaves the time base. -/
theorem timeBaseCountsTicks : Obligations.TimeBaseCountsTicks := by
  intro s hs hp
  have hx : exec .read s = .next s.readClock := execRead_of_undecided hs hp
  refine ⟨fun h => ?_, fun h => ⟨_, hx, ?_⟩⟩
  · rw [hx, State.readClock_between h]
  · obtain ⟨_, _, _, hdec⟩ := s.countTick.readTick_dec (s.dec.now + 1)
    rw [State.readClock_tick h, hdec]
    exact ⟨rfl, rfl⟩

/-! ## The handshake and the bits -/

/-- Settles O25: each of the handshake's phases at the tick it waits for, and before (`State.readTick_of_lt`). -/
theorem handshakeAtItsTicks : Obligations.HandshakeAtItsTicks := by
  intro s
  refine ⟨fun ht hp => ?_, fun ht hp hv => ?_, fun ht hp hv => ?_, fun ht hp hv => ?_, fun ht hp hv => ?_,
    fun ht hp hv => ?_, fun ht hp hv => ?_, fun n ht hp => ?_⟩
  · rw [exec_read_atTick ht (by simp [hp]), s.countTick.readTick_release hp s.params.p1.le_refl]
    exact ⟨_, rfl, rfl, rfl, rfl⟩
  · rw [exec_read_atTick ht (by simp [hp]), s.countTick.readTick_input hp s.params.p2.le_refl]
    exact ⟨_, rfl, by simp [hv]⟩
  · rw [exec_read_atTick ht (by simp [hp]), s.countTick.readTick_input hp s.params.p2.le_refl]
    exact ⟨_, rfl, by simp [hv]⟩
  · rw [exec_read_atTick ht (by simp [hp]), s.countTick.readTick_ackLow hp s.params.p3.le_refl]
    exact ⟨_, rfl, by simp [hv]⟩
  · rw [exec_read_atTick ht (by simp [hp]), s.countTick.readTick_ackLow hp s.params.p3.le_refl]
    exact ⟨_, rfl, by simp [hv]⟩
  · rw [exec_read_atTick ht (by simp [hp]), s.countTick.readTick_ackHigh hp s.params.p4.le_refl,
      State.countTick_sample, hv, State.lowPoll_eq]
    exact ⟨_, rfl, rfl, rfl⟩
  · rw [exec_read_atTick ht (by simp [hp]), s.countTick.readTick_ackHigh hp s.params.p4.le_refl,
      State.countTick_sample, hv, State.lowPoll_eq]
    exact ⟨_, rfl, lowPhase_one_false _ (s.params.p4 + s.params.tSettle), rfl, rfl⟩
  · have hwait : ∃ m, s.dec.phase.waitsFor s.params = some m ∧ n < m := by
      obtain ⟨hp, hn⟩ | ⟨hp, hn⟩ | ⟨hp, hn⟩ | ⟨hp, hn⟩ := hp
      all_goals rw [hp]; exact ⟨_, rfl, hn⟩
    obtain ⟨m, hm, hn⟩ := hwait
    have hund : ∀ e, s.dec.phase ≠ .finish e := fun e he => by simp [he, ReadPhase.waitsFor] at hm
    exact ⟨_, exec_read_atTick ht hund, by rw [State.readTick_of_lt (s := s.countTick) hm hn]; exact ⟨rfl, rfl, rfl⟩⟩

/-- Settles O26: each clause is one poll (`State.lowPoll_eq`, `State.highPoll_one`, `State.highPoll_zero`), the bit
sample being the first of its high phase. -/
theorem bitPhasesPollByPoll : Obligations.BitPhasesPollByPoll := by
  intro s n ht
  refine ⟨fun hp hv => ?_, fun hp hv => ?_, fun hp hv => ?_, fun m hp hm => ?_, fun hp hv => ?_, fun hp hv hb => ?_⟩
  · rw [exec_read_atTick ht (by simp [hp]), s.countTick.readTick_low hp, State.countTick_sample, hv, State.lowPoll_eq]
    exact ⟨_, rfl, rfl, rfl, rfl⟩
  · rw [exec_read_atTick ht (by simp [hp]), s.countTick.readTick_low hp, State.countTick_sample, hv, State.lowPoll_eq]
    exact ⟨_, rfl, rfl, rfl, rfl, rfl⟩
  · rw [exec_read_atTick ht (by simp [hp]), s.countTick.readTick_settle hp le_rfl, State.bitSample_eq,
      State.countTick_sample]
    cases hs : s.sample with
    | true =>
      rw [State.highPoll_one]
      exact ⟨_, rfl, rfl, rfl, rfl, highPhase_one _⟩
    | false =>
      have hb : s.dec.bit < 39 := by simpa [hs] using hv
      rw [State.highPoll_zero n (by simpa using hb)]
      exact ⟨_, rfl, rfl, rfl, rfl, lowPhase_one_false _ (n + s.params.tSettle)⟩
  · rw [exec_read_atTick ht (by simp [hp]), State.readTick_of_lt (s := s.countTick) (congrArg _ hp) hm]
    exact ⟨_, rfl, hp, rfl⟩
  · rw [exec_read_atTick ht (by simp [hp]), s.countTick.readTick_high hp, State.countTick_sample, hv,
      State.highPoll_one]
    exact ⟨_, rfl, rfl, rfl, rfl, rfl⟩
  · rw [exec_read_atTick ht (by simp [hp]), s.countTick.readTick_high hp, State.countTick_sample, hv,
      State.highPoll_zero n (by simpa using hb)]
    exact ⟨_, rfl, rfl, rfl, rfl, lowPhase_one_false _ (n + s.params.tSettle)⟩

/-- Settles O27: both ways of ending bit 39 are `State.highPoll_last`. -/
theorem checksumDecidesAfterBit39 : Obligations.ChecksumDecidesAfterBit39 := by
  intro s n f ht hb hv hp
  obtain ⟨hp, rfl⟩ | ⟨hp, rfl⟩ := hp
  · rw [exec_read_atTick ht (by simp [hp]), s.countTick.readTick_high hp, State.countTick_sample, hv,
      State.highPoll_last n (by simp [hb])]
    exact ⟨_, rfl, rfl, rfl, by simp [Frame.sumOk, apply_ite]⟩
  · rw [exec_read_atTick ht (by simp [hp]), s.countTick.readTick_settle hp le_rfl, State.countTick_sample, hv,
      State.bitSample_eq, State.highPoll_last n (by simp [hb])]
    exact ⟨_, rfl, by simp [hb], rfl, by simp [Frame.sumOk, hb, apply_ite]⟩

/-! ## The outcome -/

/-- RESULT.VALUE of a good frame is its two bytes, each at its place (10_state.md R34). -/
theorem placeField_ofFrame (f : Frame) :
    placeField (Result.ofFrame f).value 0 = placeField f.tempInt 8 ||| placeField f.humInt 0 := by
  have hvalue : (Result.ofFrame f).value = (f.tempInt ++ f.humInt).setWidth 17 := by
    apply BitVec.eq_of_toNat_eq
    rw [BitVec.toNat_setWidth, BitVec.toNat_append, ← Nat.shiftLeft_add_eq_or_of_lt f.humInt.isLt, Nat.shiftLeft_eq]
    rfl
  rw [hvalue]
  refine BitVec.eq_of_getLsbD_eq fun i hi => ?_
  simp only [BitVec.getLsbD_or, getLsbD_placeField, BitVec.getLsbD_setWidth, BitVec.getLsbD_append]
  by_cases h8 : i < 8
  · simp [h8, hi, show i < 17 by omega, Nat.not_le.mpr h8]
  · by_cases h17 : i < 17
    · simp [h8, hi, h17, Nat.le_of_not_lt h8]
    · simp [h8, h17, BitVec.getLsbD_of_ge f.tempInt (i - 8) (by omega), BitVec.getLsbD_of_ge f.humInt i (by omega)]

/-- RESULT of a good frame as the bus reads it (10_state.md R34). -/
theorem State.resultWord_ofFrame {s : State} {f : Frame} (h : s.regs.result = Result.ofFrame f) :
    s.resultWord = 0x80000000#32 ||| (f.tempInt.setWidth 32 <<< 8) ||| f.humInt.setWidth 32 := by
  rw [State.resultWord, h, placeField_ofFrame, BitVec.or_comm, ← BitVec.or_assoc]
  simp [placeField, Result.ofFrame, Result.some]

theorem State.readFinish_ok (s : State) : s.readFinish .ok =
    State.complete { s.drive true true with
      regs := { s.regs with reading := Reading.ofFrame s.regs.frame, dstate := .done } } .ok
      (Result.ofFrame s.regs.frame) := rfl

theorem State.readFinish_error (s : State) {e : Err} (h : e ≠ .ok) : s.readFinish e =
    State.complete { s.drive true true with regs := { s.regs with reading := Reading.zero, dstate := .failed } } e
      Result.none := if_neg h

/-- Settles O28: `finish` with the outcome OK (`State.readFinish_ok`) or an error (`State.readFinish_error`). -/
theorem readFinishes : Obligations.ReadFinishes := by
  intro s e hs hp
  refine ⟨_, execRead_of_finish hs hp, ?_⟩
  by_cases he : e = .ok
  · subst he
    rw [State.readFinish_ok]
    exact ⟨rfl, ⟨rfl, rfl, rfl, rfl⟩, rfl, rfl, fun _ => State.resultWord_ofFrame rfl, rfl, rfl,
      ⟨rfl, rfl, rfl, rfl, rfl⟩, rfl, fun _ => ⟨rfl, rfl, rfl⟩, fun _ _ => rfl, fun _ => rfl⟩
  · rw [State.readFinish_error s he, if_neg he, if_neg he, if_neg he]
    exact ⟨rfl, ⟨rfl, rfl, rfl, rfl⟩, rfl, rfl, fun h => absurd h he, rfl, rfl, ⟨rfl, rfl, rfl, rfl, rfl⟩, rfl,
      fun _ => ⟨rfl, rfl, rfl⟩, fun _ _ => rfl, fun _ => rfl⟩

end Sys2Proof.Machine
end

section
/-! The invariant of the decoder, `State.DecoderInv`: every step keeps it (spec/41_decoder.md R128 to R132, R138,
10_state.md R29, R32, R35). A READ in progress keeps it phase by phase (`State.ReadInv`); the host's part of an edge
touches only the budget and accepts a command. -/

namespace Sys2Proof.Machine

/-! ## A READ in progress -/

/-- What the decoder's invariant says of a READ in a phase. -/
def State.PhaseInv (s : State) : ReadPhase → Prop
  | .release => s.pin = { oe := true, out := true } ∧ s.regs.dstate = .release ∧ s.regs.nbits = 0 ∧ s.dec.bit = 0
  | .input => s.pin.oe = false ∧ s.regs.dstate = .release ∧ s.regs.nbits = 0 ∧ s.dec.bit = 0
  | .ackLow => s.pin.oe = false ∧ s.regs.dstate = .ackLowSeen ∧ s.regs.nbits = 0 ∧ s.dec.bit = 0
  | .ackHigh => s.pin.oe = false ∧ s.regs.dstate = .ackHighSeen ∧ s.regs.nbits = 0 ∧ s.dec.bit = 0
  | .low => s.pin.oe = false ∧ s.regs.dstate = .rxBits ∧ s.dec.bit < 40 ∧ s.regs.nbits.toNat = s.dec.bit ∧
      1 ≤ s.dec.polls ∧ s.dec.polls < s.dec.budget.toNat
  | .settle _ => s.pin.oe = false ∧ s.regs.dstate = .rxBits ∧ s.dec.bit < 40 ∧ s.regs.nbits.toNat = s.dec.bit
  | .high => s.pin.oe = false ∧ s.regs.dstate = .rxBits ∧ s.dec.bit < 40 ∧ s.regs.nbits.toNat = s.dec.bit + 1 ∧
      1 ≤ s.dec.polls ∧ s.dec.polls < s.dec.budget.toNat
  | .finish _ => s.pin.oe = false

/-- What the decoder's invariant says of a READ that has begun. -/
structure State.ReadInv (s : State) : Prop where
  presc : s.dec.presc < s.params.cycPerUs
  bit : s.dec.bit ≤ 40
  nbits : s.regs.nbits.toNat ≤ 40
  phase : s.PhaseInv s.dec.phase

/-- The decoder's invariant with its part about a READ in progress named. -/
theorem State.decoderInv_iff (s : State) : s.DecoderInv ↔
    s.regs.budget ≠ 0 ∧
    (s.regs.busy = true → decode s.eng.cmd = .instr .read →
      s.dec.budget ≠ 0 ∧ (s.eng.started = false → s.regs.dstate = .release)) ∧
    s.dec.sync.length = s.params.syncStages ∧ s.regs.nbits.toNat ≤ 40 ∧ (s.inRead → s.ReadInv) := by
  refine and_congr_right fun _ => and_congr_right fun _ => and_congr_right fun _ => and_congr_right fun hn =>
    imp_congr_right fun _ => ⟨fun ⟨hpresc, hbit, hphase⟩ => ⟨hpresc, hbit, hn, hphase⟩,
      fun h => ⟨h.presc, h.bit, h.phase⟩⟩

/-- A poll of a low phase that is within the budget. -/
theorem State.readInv_lowPoll {u : State} {t : Nat} {v : Bool} (hpresc : u.dec.presc < u.params.cycPerUs)
    (hoe : u.pin.oe = false) (hds : u.regs.dstate = .rxBits) (hbit : u.dec.bit < 40)
    (hn : u.regs.nbits.toNat = u.dec.bit) (hlo : 1 ≤ u.dec.polls) (hhi : u.dec.polls ≤ u.dec.budget.toNat) :
    (u.lowPoll t v).ReadInv := by
  have hn40 : u.regs.nbits.toNat ≤ 40 := by omega
  obtain ⟨-, h⟩ | ⟨-, -, h⟩ | ⟨-, hne, h⟩ := u.lowPoll_cases t v
  · rw [h]
    exact ⟨hpresc, hbit.le, hn40, hoe, hds, hbit, hn⟩
  · rw [h]
    exact ⟨hpresc, hbit.le, hn40, hoe⟩
  · rw [h]
    exact ⟨hpresc, hbit.le, hn40, hoe, hds, hbit, hn, hlo, hhi.lt_of_ne hne⟩

/-- A poll of a high phase that is within the budget. -/
theorem State.readInv_highPoll {u : State} {t : Nat} {v : Bool} (hpresc : u.dec.presc < u.params.cycPerUs)
    (hoe : u.pin.oe = false) (hds : u.regs.dstate = .rxBits) (hbit : u.dec.bit < 40)
    (hn : u.regs.nbits.toNat = u.dec.bit + 1) (hlo : 1 ≤ u.dec.polls) (hhi : u.dec.polls ≤ u.dec.budget.toNat) :
    (u.highPoll t v).ReadInv := by
  have hn40 : u.regs.nbits.toNat ≤ 40 := by omega
  cases v with
  | true =>
    rw [State.highPoll_true]
    split
    · exact ⟨hpresc, hbit.le, hn40, hoe⟩
    · next hne => exact ⟨hpresc, hbit.le, hn40, hoe, hds, hbit, hn, hlo, hhi.lt_of_ne hne⟩
  | false =>
    rw [State.highPoll_false]
    split
    · next hlast => exact State.readInv_lowPoll hpresc hoe hds hlast hn le_rfl (hlo.trans hhi)
    · exact ⟨hpresc, hbit, hn40, hoe⟩

/-- A tick keeps the invariant of a READ, phase by phase. -/
theorem State.ReadInv.readTick {s : State} (h : s.ReadInv) (hb : s.dec.budget ≠ 0) (t : Nat) :
    (s.readTick t).ReadInv := by
  obtain ⟨hpresc, hbit, hn, hphase⟩ := id h
  have hbudget := one_le_budget hb
  by_cases hwait : ∃ m, s.dec.phase.waitsFor s.params = some m ∧ t < m
  · obtain ⟨m, hm, ht⟩ := hwait
    rwa [State.readTick_of_lt hm ht]
  have due : ∀ {m}, s.dec.phase.waitsFor s.params = some m → m ≤ t := fun hm =>
    Nat.le_of_not_lt fun ht => hwait ⟨_, hm, ht⟩
  cases hp : s.dec.phase with
  | release =>
    rw [hp] at hphase due
    obtain ⟨-, hds, hn0, hb0⟩ := hphase
    rw [s.readTick_release hp (due rfl)]
    exact ⟨hpresc, hbit, hn, rfl, hds, hn0, hb0⟩
  | input =>
    rw [hp] at hphase due
    obtain ⟨hoe, -, hn0, hb0⟩ := hphase
    rw [s.readTick_input hp (due rfl)]
    split
    · exact ⟨hpresc, hbit, hn, hoe⟩
    · exact ⟨hpresc, hbit, hn, hoe, rfl, hn0, hb0⟩
  | ackLow =>
    rw [hp] at hphase due
    obtain ⟨hoe, -, hn0, hb0⟩ := hphase
    rw [s.readTick_ackLow hp (due rfl)]
    split
    · exact ⟨hpresc, hbit, hn, hoe, rfl, hn0, hb0⟩
    · exact ⟨hpresc, hbit, hn, hoe⟩
  | ackHigh =>
    rw [hp] at hphase due
    obtain ⟨hoe, -, hn0, hb0⟩ := hphase
    rw [s.readTick_ackHigh hp (due rfl)]
    have hbit' : s.dec.bit < 40 := by omega
    exact State.readInv_lowPoll hpresc hoe rfl hbit' (by simp [hn0, hb0]) le_rfl hbudget
  | low =>
    rw [hp] at hphase
    obtain ⟨hoe, hds, hbit', hnb, -, hpolls⟩ := hphase
    rw [s.readTick_low hp]
    exact State.readInv_lowPoll hpresc hoe hds hbit' hnb (Nat.le_add_left 1 _) hpolls
  | settle wake =>
    rw [hp] at hphase due
    obtain ⟨hoe, hds, hbit', -⟩ := hphase
    rw [s.readTick_settle hp (due rfl), State.bitSample_eq]
    have hnb : (BitVec.ofNat 6 (s.dec.bit + 1)).toNat = s.dec.bit + 1 := Nat.mod_eq_of_lt (by omega)
    exact State.readInv_highPoll hpresc hoe hds hbit' hnb le_rfl hbudget
  | high =>
    rw [hp] at hphase
    obtain ⟨hoe, hds, hbit', hnb, -, hpolls⟩ := hphase
    rw [s.readTick_high hp]
    exact State.readInv_highPoll hpresc hoe hds hbit' hnb (Nat.le_add_left 1 _) hpolls
  | finish e =>
    rw [State.readTick, hp]
    exact h

theorem State.ReadInv.readClock {s : State} (h : s.ReadInv) (hb : s.dec.budget ≠ 0) : s.readClock.ReadInv := by
  obtain ⟨hpresc, hbit, hn, hphase⟩ := h
  rcases Nat.lt_or_ge (s.dec.presc + 1) s.params.cycPerUs with hc | hc
  · rw [State.readClock_between hc]
    exact ⟨hc, hbit, hn, hphase⟩
  · rw [State.readClock_tick hc]
    exact State.ReadInv.readTick (s := s.countTick) ⟨Nat.zero_lt_of_lt hpresc, hbit, hn, hphase⟩ hb _

/-! ## Every command -/

theorem State.readClock_sync (s : State) : s.readClock.dec.sync = s.dec.sync := by
  rcases Nat.lt_or_ge (s.dec.presc + 1) s.params.cycPerUs with hc | hc
  · rw [State.readClock_between hc]
  · obtain ⟨_, _, _, hdec⟩ := s.countTick.readTick_dec (s.dec.now + 1)
    rw [State.readClock_tick hc, hdec]
    rfl

theorem State.readClock_eng (s : State) : s.readClock.eng = s.eng := by
  rcases Nat.lt_or_ge (s.dec.presc + 1) s.params.cycPerUs with hc | hc
  · rw [State.readClock_between hc]
  · obtain ⟨-, -, heng, -⟩ := s.countTick.readTick_frame (s.dec.now + 1)
    rw [State.readClock_tick hc, heng]
    rfl

/-- Between commands the decoder's invariant is the budget, the synchroniser and NBITS. -/
theorem State.decoderInv_of_not_busy {s : State} (hb : s.regs.busy = false) (hbudget : s.regs.budget ≠ 0)
    (hsync : s.dec.sync.length = s.params.syncStages) (hn : s.regs.nbits.toNat ≤ 40) : s.DecoderInv :=
  State.decoderInv_idle (by simp [hb]) hbudget (by simp [hb]) hsync hn

/-- `finish` ends the READ. -/
theorem State.decoderInv_readFinish {s : State} (hinv : s.DecoderInv) (e : Err) : (s.readFinish e).DecoderInv := by
  obtain ⟨hbudget, -, hsync, hn, -⟩ := hinv
  by_cases he : e = .ok
  · subst he
    exact State.decoderInv_of_not_busy rfl hbudget hsync hn
  · rw [State.readFinish_error s he]
    exact State.decoderInv_of_not_busy rfl hbudget hsync hn

/-- One engine step of READ: tick 0 starts the invariant of a READ, the clock keeps it, and `finish` ends the READ. -/
theorem execRead_decoderInv {s t : State} (hwf : s.params.WellFormed) (hinv : s.DecoderInv)
    (hbusy : s.regs.busy = true) (hd : decode s.eng.cmd = .instr .read) (h : execRead s = .next t) : t.DecoderInv := by
  obtain ⟨hbudget, hread, hsync, hn, hin⟩ := s.decoderInv_iff.mp hinv
  obtain ⟨hcopy, -⟩ := hread hbusy hd
  obtain ⟨⟨-, -, ⟨-, -, -, hregs, -⟩, -⟩, -⟩ := execRead_decoderFrame h
  have hdec := execRead_budget h
  obtain ⟨-, rfl⟩ | ⟨hs, ⟨e, -, rfl⟩ | ⟨-, rfl⟩⟩ := execRead_next h
  · obtain ⟨-, -, ⟨hcyc, -⟩, -⟩ := hwf
    exact (State.decoderInv_iff _).mpr ⟨hbudget, fun _ _ => ⟨hcopy, fun _ => rfl⟩, hsync, Nat.zero_le 40,
      fun _ => ⟨hcyc, Nat.zero_le 40, Nat.zero_le 40, rfl, rfl, rfl, rfl⟩⟩
  · exact State.decoderInv_readFinish hinv e
  · have hinv' := (hin ⟨hbusy, hd, hs⟩).readClock hcopy
    refine (State.decoderInv_iff _).mpr ⟨hregs ▸ hbudget, fun _ _ => ⟨hdec ▸ hcopy, fun hs' => ?_⟩, ?_, hinv'.nbits,
      fun _ => hinv'⟩
    · rw [s.readClock_eng, hs] at hs'
      cases hs'
    · rw [s.readClock_sync, s.readClock_params, hsync]

/-- A command that is no READ leaves the decoder's part of the state, or is START. -/
theorem exec_decoderInv {i : Instr} {s t : State} (hwf : s.params.WellFormed) (hinv : s.DecoderInv)
    (hbusy : s.regs.busy = true) (hd : decode s.eng.cmd = .instr i) (h : exec i s = .next t) : t.DecoderInv := by
  by_cases hread : i = .read
  · subst hread
    exact execRead_decoderInv hwf hinv hbusy hd h
  obtain ⟨hbudget, -, hsync, hn, -⟩ := hinv
  obtain ⟨⟨hparams, -, ⟨-, -, -, hbudget', -⟩, hcmd⟩, -⟩ := exec_engineFrame h
  have hno : decode t.eng.cmd ≠ .instr .read := by simpa [hcmd, hd] using hread
  have hdec : t.dec = s.dec ∧ t.regs.nbits = s.regs.nbits := by
    by_cases hstart : i = .start
    · subst hstart
      injection h with h
      exact h ▸ ⟨rfl, rfl⟩
    · obtain ⟨-, ⟨-, hdec, -, -, -, hnb⟩, -⟩ := exec_leavesAllBut h hstart hread
      exact ⟨hdec, hnb⟩
  obtain ⟨hdec, hnb⟩ := hdec
  exact State.decoderInv_idle (fun ⟨_, hr, _⟩ => hno hr) (hbudget' ▸ hbudget) (fun _ hr => absurd hr hno)
    (by rw [hdec, hparams, hsync]) (hnb ▸ hn)

/-! ## The clock edge -/

theorem State.writtenView_budget_ne_zero {s : State} (h : s.regs.budget ≠ 0) : s.writtenView.budget ≠ 0 := by
  cases hw : s.writesNow 4 with
  | none => simpa [State.writtenView, hw] using h
  | some d => simpa [State.writtenView, hw] using budgetOf_ne_zero d

/-- Acceptance copies the budget and shows RELEASE for a READ, which has not begun. -/
theorem State.DecoderInv.acceptNow {s : State} (hinv : s.DecoderInv) : s.acceptNow.DecoderInv := by
  obtain ⟨hbudget, -, hsync, hn, -⟩ := id hinv
  cases hb : s.regs.busy with
  | true => rwa [State.acceptNow_of_busy hb]
  | false =>
    cases hw : s.writesNow 3 with
    | none => rwa [State.acceptNow_of_no_cmd hw]
    | some w =>
      rw [State.acceptNow_of_cmd hw hb]
      refine State.decoderInv_idle (fun ⟨_, _, hr⟩ => Bool.false_ne_true hr) hbudget
        (fun _ hd => ⟨?_, fun _ => ?_⟩) hsync hn
      · rwa [show (s.accept w).dec.budget = s.regs.budget from if_pos (opField_of_decode_read hd)]
      · exact s.acceptDState_of_read (opField_of_decode_read hd)

/-- The host's side of the state is not the decoder's, but for the budget. -/
theorem State.DecoderInv.withHost {s : State} (hinv : s.DecoderInv) {v : HostView} (hv : v.budget ≠ 0) (m : Memory) :
    State.DecoderInv { s.withHost v with storage := m } := by
  obtain ⟨-, hrest⟩ := hinv
  exact ⟨hv, hrest⟩

theorem State.DecoderInv.hostEdge {s : State} (hinv : s.DecoderInv) : s.hostEdge.DecoderInv := by
  obtain ⟨hbudget, -⟩ := id hinv
  rw [State.hostEdge_eq]
  exact hinv.acceptNow.withHost (State.writtenView_budget_ne_zero hbudget) _

theorem State.length_syncAfter (s : State) : s.syncAfter.length = s.dec.sync.length := by
  simp [State.syncAfter]

/-- The end of an edge shifts the synchroniser, of which it keeps the stages. -/
theorem State.DecoderInv.closeEdge {s t : State} (hs : s.DecoderInv) (ht : t.DecoderInv) (hp : t.params = s.params) :
    (s.closeEdge t).DecoderInv := by
  obtain ⟨-, -, hsync, -⟩ := hs
  obtain ⟨hbudget, hread, -, hn, hin⟩ := ht
  exact ⟨hbudget, hread, by rw [closeEdge_dec, closeEdge_params, hp, ← hsync]; exact s.length_syncAfter, hn, hin⟩

/-- Settles O57, along the kinds of step: the host's part of an edge keeps the invariant (`State.DecoderInv.hostEdge`),
so does the engine's (`exec_decoderInv`), an illegal command is none of the decoder's, and a reset edge starts it
anew. -/
theorem everyStepKeepsTheDecoderInvariant : Obligations.EveryStepKeepsTheDecoderInvariant := by
  intro s t hwf hinv h
  obtain ⟨r, -, hs⟩ | ⟨-, -, hs⟩ | ⟨-, -, -, hs⟩ | ⟨-, -, hb, i, hd, hs⟩ | ⟨-, -, hb, op, hd, hs⟩ := step_cases s
  all_goals rw [hs] at h
  · cases h
  · injection h with h
    obtain ⟨hreset, -⟩ := decoderInvariantHoldsAtReset
    exact h ▸ hinv.closeEdge (hreset s.params hwf) rfl
  · injection h with h
    exact h ▸ hinv.closeEdge hinv.hostEdge s.hostEdge_params
  · obtain ⟨u, hu, rfl⟩ := onNext_next h
    obtain ⟨heng, hb'⟩ := State.hostEdge_busy hb
    refine hinv.closeEdge ?_ ((exec_params hu).trans s.hostEdge_params)
    exact exec_decoderInv (s.hostEdge_params ▸ hwf) hinv.hostEdge hb' (heng ▸ hd) hu
  · injection h with h
    obtain ⟨hbudget, -, hsync, hn, -⟩ := hinv.hostEdge
    exact h ▸ hinv.closeEdge (State.decoderInv_of_not_busy rfl hbudget hsync hn) s.hostEdge_params

end Sys2Proof.Machine
end

section
/-! The frame, its checksum and READ as the pseudocode of spec/41_decoder.md R123 has it: where a bit is held (R132),
what the checksum catches (R142), which poll ends a phase (R128), and how long a READ lasts (R139, R141). -/

namespace Sys2Proof.Machine

/-! ## The frame's bits -/

theorem getLsbD_setBitOf {p q : Nat} (hq : q < 8) (x : Byte) (v : Bool) :
    (setBitOf x p v).getLsbD q = if q = p then v else x.getLsbD q := by
  have hbit : (1#8 <<< p).getLsbD q = decide (q = p) := by
    rw [← BitVec.twoPow_eq, BitVec.getLsbD_twoPow]
    by_cases h : p = q
    · simp [h, hq]
    · simp [h, Ne.symm h]
  cases v with
  | true =>
    rw [setBitOf, if_pos rfl, BitVec.getLsbD_or, hbit]
    by_cases h : q = p <;> simp [h]
  | false =>
    rw [setBitOf, if_neg Bool.false_ne_true, BitVec.getLsbD_and, BitVec.getLsbD_not, hbit]
    by_cases h : q = p <;> simp [h, hq]

/-- Byte `j` of the frame. -/
def Frame.byte (f : Frame) : Nat → Byte
  | 0 => f.humInt
  | 1 => f.humFrac
  | 2 => f.tempInt
  | 3 => f.tempFrac
  | _ => f.check

theorem Frame.bit_eq (f : Frame) (i : Nat) : f.bit i = (f.byte (i / 8)).getLsbD (7 - i % 8) := rfl

theorem Frame.byte_setBit (f : Frame) {j k : Nat} (hj : j < 5) (hk : k < 40) (v : Bool) :
    (f.setBit k v).byte j = if j = k / 8 then setBitOf (f.byte j) (7 - k % 8) v else f.byte j := by
  have hk5 : k / 8 < 5 := by omega
  unfold Frame.setBit
  generalize k / 8 = b at hk5 ⊢
  interval_cases b <;> interval_cases j <;> rfl

/-- Setting a bit of the frame sets that bit and no other. -/
theorem Frame.bit_setBit (f : Frame) {i k : Nat} (hi : i < 40) (hk : k < 40) (v : Bool) :
    (f.setBit k v).bit i = if i = k then v else f.bit i := by
  rw [Frame.bit_eq, Frame.bit_eq, f.byte_setBit (by omega) hk]
  by_cases hbyte : i / 8 = k / 8
  · have hplace : 7 - i % 8 = 7 - k % 8 ↔ i = k := by omega
    simp only [if_pos hbyte, getLsbD_setBitOf (show 7 - i % 8 < 8 by omega), hplace]
  · rw [if_neg hbyte, if_neg fun h => hbyte (by rw [h])]

/-- Settles O33, by induction on the number of bits taken (`Frame.bit_setBit`). -/
theorem frameHoldsBitsInOrder : Obligations.FrameHoldsBitsInOrder := by
  intro v n i hn hi
  induction n with
  | zero =>
    rw [List.range_zero, List.foldl_nil, Frame.bit_eq]
    have hi5 : i / 8 < 5 := by omega
    generalize i / 8 = b at hi5 ⊢
    interval_cases b <;> simp [Frame.byte, Frame.zero]
  | succ n ih =>
    rw [List.range_succ, List.foldl_append, List.foldl_cons, List.foldl_nil, Frame.bit_setBit _ hi (by omega),
      ih (by omega)]
    by_cases h : i = n
    · simp [h]
    · simp [h, show i < n + 1 ↔ i < n by omega]

/-! ## The checksum -/

theorem Frame.sumOk_iff (f : Frame) : f.sumOk = true ↔
    (f.humInt.toNat + f.humFrac.toNat + f.tempInt.toNat + f.tempFrac.toNat) % 256 = f.check.toNat := by
  simp [Frame.sumOk]

/-- Settles O34: the other four bytes fix the fifth, mod 256. -/
theorem checksumCatchesOneByte : Obligations.ChecksumCatchesOneByte := by
  intro f x h
  have hsum := f.sumOk_iff.mp h
  refine ⟨fun hx => ?_, fun hx => ?_, fun hx => ?_, fun hx => ?_, fun hx => ?_⟩
  all_goals
    rw [Bool.eq_false_iff, ne_eq, Frame.sumOk_iff]
    rw [ne_eq, ← BitVec.toNat_inj] at hx
    dsimp only
    omega

/-! ## The polls of a phase -/

section
variable {budget t : Nat} {smp : Nat → Bool} {want : Bool}

theorem firstPoll_eq_some_iff {j : Nat} : firstPoll budget smp t want = some j ↔
    j < budget ∧ smp (t + j) = want ∧ ∀ i < j, smp (t + i) = !want := by
  rw [firstPoll, List.find?_range_eq_some]
  simp [Bool.eq_not, and_left_comm]

theorem firstPoll_eq_none_iff : firstPoll budget smp t want = none ↔ ∀ i < budget, smp (t + i) = !want := by
  rw [firstPoll, List.find?_range_eq_none]
  simp [Bool.eq_not]

/-- With a budget of 1 a phase has one poll. -/
theorem firstPoll_one : firstPoll 1 smp t want = if smp t = want then some 0 else none := by
  split
  · next h => exact firstPoll_eq_some_iff.mpr ⟨Nat.one_pos, h, fun i hi => absurd hi i.not_lt_zero⟩
  · next h =>
    refine firstPoll_eq_none_iff.mpr fun i hi => ?_
    rw [Nat.lt_one_iff.mp hi]
    exact Bool.eq_not.mpr h

end

/-! ## How long a READ lasts -/

/-- The reception of `n` bits takes, for each, two phases within the budget and a settle delay; it fails by no
handshake. -/
theorem receiveBits_bounds (budget settle : Nat) (smp : Nat → Bool) (hb : 1 ≤ budget) (n i t : Nat) (f : Frame) :
    (receiveBits budget settle smp n i t f).tick ≤ t + n * (2 * (budget - 1) + settle) ∧
    (receiveBits budget settle smp n i t f).nbits ≤ i + n ∧
    (receiveBits budget settle smp n i t f).err ≠ .noAckLow ∧
    (receiveBits budget settle smp n i t f).err ≠ .noAckHigh := by
  induction n generalizing i t f with
  | zero =>
    refine ⟨by simp [receiveBits], by simp [receiveBits], ?_, ?_⟩
    all_goals
      rw [receiveBits]
      dsimp only
      split <;> decide
  | succ n ih =>
    have hbit : (n + 1) * (2 * (budget - 1) + settle) = n * (2 * (budget - 1) + settle) + (2 * (budget - 1) + settle) :=
      Nat.succ_mul _ _
    rw [receiveBits, hbit]
    generalize n * (2 * (budget - 1) + settle) = later at ih
    split
    · exact ⟨by dsimp only; omega, by dsimp only; omega, nofun, nofun⟩
    · next j hj =>
      obtain ⟨hj, -⟩ := firstPoll_eq_some_iff.mp hj
      dsimp only
      split
      · exact ⟨by dsimp only; omega, by dsimp only; omega, nofun, nofun⟩
      · next k hk =>
        obtain ⟨hk, -⟩ := firstPoll_eq_some_iff.mp hk
        obtain ⟨htick, hnbits, herr⟩ := ih (i + 1) (t + j + settle + k) (f.setBit i (smp (t + j + settle)))
        exact ⟨by omega, by omega, herr⟩

/-- The three ways of the pseudocode READ. -/
theorem readOutcome_cases (p : Params) (budget : Nat) (smp : Nat → Bool) :
    (smp p.p2 = true ∧
      readOutcome p budget smp = { err := .noAckLow, frame := Frame.zero, nbits := 0, tick := p.p2 }) ∨
    (smp p.p2 = false ∧ smp p.p3 = false ∧
      readOutcome p budget smp = { err := .noAckHigh, frame := Frame.zero, nbits := 0, tick := p.p3 }) ∨
    (smp p.p2 = false ∧ smp p.p3 = true ∧
      readOutcome p budget smp = receiveBits budget p.tSettle smp 40 0 p.p4 Frame.zero) := by
  cases h2 : smp p.p2 with
  | true => exact .inl ⟨rfl, by simp [readOutcome, h2]⟩
  | false =>
    cases h3 : smp p.p3 with
    | true => exact .inr (.inr ⟨rfl, rfl, by simp [readOutcome, h2, h3]⟩)
    | false => exact .inr (.inl ⟨rfl, rfl, by simp [readOutcome, h2, h3]⟩)

theorem p2_le_p4 (p : Params) : p.p2 ≤ p.p4 := by
  unfold Params.p4 Params.p3
  omega

theorem p3_le_p4 (p : Params) : p.p3 ≤ p.p4 := Nat.le_add_right _ _

/-- A READ takes at most 40 bits, within the bound of R141. -/
theorem readOutcome_bounds (p : Params) (budget : Nat) (smp : Nat → Bool) (hb : 1 ≤ budget) :
    (readOutcome p budget smp).tick ≤ p.p4 + 40 * (2 * (budget - 1) + p.tSettle) ∧
    (readOutcome p budget smp).nbits ≤ 40 := by
  obtain ⟨-, h⟩ | ⟨-, -, h⟩ | ⟨-, -, h⟩ := readOutcome_cases p budget smp
  · rw [h]
    exact ⟨Nat.le_add_right_of_le (p2_le_p4 p), Nat.zero_le 40⟩
  · rw [h]
    exact ⟨Nat.le_add_right_of_le (p3_le_p4 p), Nat.zero_le 40⟩
  · obtain ⟨htick, hnbits, -⟩ := receiveBits_bounds budget p.tSettle smp hb 40 0 p.p4 Frame.zero
    rw [h]
    exact ⟨htick, hnbits⟩

/-- Settles O31: the bound is that of `readOutcome_bounds`, and only the handshake's two samples give the two errors. -/
theorem readDurationIsBounded : Obligations.ReadDurationIsBounded := by
  refine ⟨fun p budget smp hb => ?_, fun smp => ?_⟩
  · obtain ⟨htick, -⟩ := readOutcome_bounds p budget smp hb
    refine ⟨htick, ?_⟩
    obtain ⟨-, h⟩ | ⟨-, -, h⟩ | ⟨-, -, h⟩ := readOutcome_cases p budget smp
    · simp [h]
    · simp [h]
    · obtain ⟨-, -, hlow, hhigh⟩ := receiveBits_bounds budget p.tSettle smp hb 40 0 p.p4 Frame.zero
      rw [h]
      exact ⟨fun he => absurd he hlow, fun he => absurd he hhigh⟩
  · obtain ⟨htick, -⟩ := readOutcome_bounds Params.reference 200 smp (by decide)
    exact htick

/-- Settles O32: bit 0's low phase has the one poll at P4, and a sample of 0 is the one low poll of bit 1
(`firstPoll_one`). -/
theorem budgetOneAlwaysTimesOut : Obligations.BudgetOneAlwaysTimesOut := by
  intro p smp h2 h3
  have hread : readOutcome p 1 smp = receiveBits 1 p.tSettle smp 40 0 p.p4 Frame.zero := by simp [readOutcome, h2, h3]
  rw [hread]
  cases h4 : smp p.p4 with
  | false => simp [receiveBits, firstPoll_one, h4]
  | true =>
    cases hu : smp (p.p4 + p.tSettle) with
    | true => simp [receiveBits, firstPoll_one, h4, hu]
    | false => simp [receiveBits, firstPoll_one, h4, hu]

end Sys2Proof.Machine
end

section
/-! The clocked READ against the pseudocode of spec/41_decoder.md R123. From its acceptance, with an idle host, a READ
is followed edge by edge (`State.ReadRun`), what it holds between two ticks is a `ReadView`, and each phase of the
pseudocode leads from one view to the next (`State.ReadReaches`), so that the tick and the outcome are those of
`readOutcome`. -/

namespace Sys2Proof.Machine

/-! ## Runs and the samples they see -/

theorem run_succ {k : Nat} {s t u : State} (h : Host.Core.run Sys2Proof.core k s = .next t) (ht : step t = .next u) :
    Host.Core.run Sys2Proof.core (k + 1) s = .next u := by
  induction k generalizing s with
  | zero =>
    injection h with h
    subst h
    simp only [Host.Core.run, Sys2Proof.core, ht]
  | succ k ih =>
    simp only [Host.Core.run] at h ⊢
    split at h
    · exact ih h
    · cases h
    · cases h

theorem State.levelNow_eq_levelAt (s : State) : s.levelNow = s.levelAt 0 := by
  rw [State.levelNow, State.levelAt, List.head?_eq_getElem?]
  rfl

/-- `Sample()` at this edge. -/
theorem State.sample_eq_sampleAt {s : State} (h : 0 < s.dec.sync.length) : s.sample = s.sampleAt 0 := by
  rw [State.sample, State.sampleAt, if_pos h, List.getLast?_eq_getElem?, Nat.sub_zero]
  have hlt : s.dec.sync.length - 1 < s.dec.sync.length := by omega
  rw [List.getElem?_eq_getElem hlt]
  rfl

/-- After an edge each sample is one edge nearer. -/
theorem State.sampleAt_closeEdge (s t : State) (j : Nat) :
    (s.closeEdge t).sampleAt j = s.sampleAt (j + 1) := by
  have hlen : (s.closeEdge t).dec.sync.length = s.dec.sync.length := s.length_syncAfter
  have hlevel : ∀ k, (s.closeEdge t).levelAt k = s.levelAt (k + 1) := fun k => by
    simp [State.levelAt, State.closeEdge, Nat.add_assoc, Nat.add_comm 1]
  rw [State.sampleAt, State.sampleAt, hlen, closeEdge_dec, hlevel]
  rcases Nat.lt_trichotomy (j + 1) s.dec.sync.length with hj | hj | hj
  · have hindex : s.dec.sync.length - 1 - j = s.dec.sync.length - 1 - (j + 1) + 1 := by omega
    rw [if_pos (by omega), if_pos hj, hindex, State.syncAfter, List.getElem?_take_of_lt (by omega),
      List.getElem?_cons_succ]
  · rw [if_pos (by omega), if_neg (by omega), ← hj, State.syncAfter]
    simp [← hj, s.levelNow_eq_levelAt]
  · rw [if_neg (by omega), if_neg (by omega), Nat.sub_add_comm (by omega)]

/-! ## A READ and an idle host, edge by edge -/

/-- A READ has just been accepted, in an elaboration in range and with a legal budget, and the host is idle. -/
structure State.ReadAccepted (s : State) : Prop where
  params : s.params.WellFormed
  accepted : s.justAccepted .read
  budget : s.dec.budget ≠ 0
  sync : s.dec.sync.length = s.params.syncStages

/-- `s` is the state `k` edges after `s₀`: no access has been made, and no part of `s₀` written that is not the
decoder's, the completion's or the engine's. -/
structure State.ReadRun (s₀ : State) (k : Nat) (s : State) : Prop where
  run : Host.Core.run Sys2Proof.core k s₀ = .next s
  host : s.env.host = []
  params : s.params = s₀.params
  bufs : s.bufs = s₀.bufs
  storage : s.storage = s₀.storage
  port : s.port = s₀.port
  lastOp : s.regs.lastOp = s₀.regs.lastOp
  ie : s.regs.ie = s₀.regs.ie
  drop : s.regs.drop = s₀.regs.drop
  budget : s.regs.budget = s₀.regs.budget
  cmd : s.eng.cmd = s₀.eng.cmd
  copy : s.dec.budget = s₀.dec.budget
  sync : s.dec.sync.length = s₀.dec.sync.length
  samples : ∀ j, s.sampleAt j = s₀.sampleAt (k + j)

theorem State.noMove_of_idle {s : State} (hwf : s.params.WellFormed) (h : s.env.host = []) : s.noMove = none := by
  rw [State.noMove, if_pos hwf, h]
  rfl

theorem State.hostEdge_of_idle {s : State} (h : s.env.host = []) :
    s.hostEdge = { s with regs := { s.regs with busRdata := none } } := by
  rw [State.hostEdge, State.accessNow, h]
  rfl

section
variable {s₀ : State} (h₀ : s₀.ReadAccepted)
include h₀

theorem State.ReadAccepted.readRun : s₀.ReadRun 0 s₀ := by
  obtain ⟨-, -, -, hhost⟩ := h₀.accepted
  exact ⟨rfl, hhost, rfl, rfl, rfl, rfl, rfl, rfl, rfl, rfl, rfl, rfl, rfl, fun j => by rw [Nat.zero_add]⟩

/-- One more edge with the READ in progress. -/
theorem State.ReadRun.edge {k : Nat} {s x : State} (h : s₀.ReadRun k s) (hb : s.regs.busy = true)
    (hx : execRead s.hostEdge = .next x) : s₀.ReadRun (k + 1) (s.closeEdge x) := by
  obtain ⟨-, hcmd, -⟩ := h₀.accepted
  have hn : s.noMove = none := State.noMove_of_idle (h.params ▸ h₀.params) h.host
  have hr : s.resetNow = false := by rw [State.resetNow, h.host]; rfl
  have hstep : step s = .next (s.closeEdge x) := by
    rw [step_of_instr hn hr hb (h.cmd ▸ hcmd), show exec .read s.hostEdge = .next x from hx]
    rfl
  obtain ⟨⟨hparams, -, ⟨hie, hdrop, hop, hbudget, -⟩, hcmd'⟩, hbufs, hport, hst⟩ := execRead_decoderFrame hx
  have hcopy := execRead_budget hx
  rw [State.hostEdge_of_idle h.host] at hparams hie hdrop hop hbudget hcmd' hbufs hport hst hcopy
  exact
    { run := run_succ h.run hstep
      host := by rw [State.closeEdge, State.hostAfter, h.host]
      params := hparams.trans h.params
      bufs := hbufs.trans h.bufs
      storage := hst.trans h.storage
      port := hport.trans h.port
      lastOp := hop.trans h.lastOp
      ie := hie.trans h.ie
      drop := hdrop.trans h.drop
      budget := hbudget.trans h.budget
      cmd := hcmd'.trans h.cmd
      copy := hcopy.trans h.copy
      sync := s.length_syncAfter.trans h.sync
      samples := fun j => by rw [State.sampleAt_closeEdge, h.samples, Nat.add_right_comm, Nat.add_assoc] }

end

/-! ## What a READ holds between two ticks -/

/-- Where a READ stands, and what it has received. -/
structure ReadView where
  phase : ReadPhase
  bit   : Nat
  polls : Nat
  frame : Frame
  nbits : BitVec 6

def State.readView (s : State) : ReadView :=
  { phase := s.dec.phase, bit := s.dec.bit, polls := s.dec.polls, frame := s.regs.frame, nbits := s.regs.nbits }

/-- `n` ticks of the READ accepted at `s₀` have been, and `c` edges since the last of them; it stands at `V`. -/
def State.ReadReaches (s₀ : State) (n c : Nat) (V : ReadView) : Prop :=
  ∃ s, s₀.ReadRun (n * s₀.params.cycPerUs + c + 1) s ∧ s.regs.busy = true ∧ s.eng.started = true ∧ s.dec.now = n ∧
    s.dec.presc = c ∧ s.readView = V

/-- The sample at tick `t` of the READ accepted at `s`. -/
def State.tickSample (s : State) (t : Nat) : Bool := s.sampleAt (t * s.params.cycPerUs)

/-- What tick `n` of the READ accepted at `s₀` makes of `V`. -/
def State.TicksTo (s₀ : State) (n : Nat) (V V' : ReadView) : Prop :=
  ∀ w : State, w.readView = V → w.params = s₀.params → w.dec.budget = s₀.dec.budget → w.sample = s₀.tickSample n →
    (w.readTick n).readView = V'

section
variable {s₀ : State} (h₀ : s₀.ReadAccepted)
include h₀

/-- Tick 0, the first edge. -/
theorem State.ReadAccepted.begins :
    s₀.ReadReaches 0 0 { phase := .release, bit := 0, polls := 0, frame := Frame.zero, nbits := 0 } := by
  obtain ⟨hb, -, hs, hhost⟩ := h₀.accepted
  have hx : execRead s₀.hostEdge = .next s₀.hostEdge.readBegin :=
    execRead_of_not_started (by rwa [State.hostEdge_of_idle hhost])
  have hrun := State.ReadRun.edge h₀ h₀.readRun hb hx
  rw [State.hostEdge_of_idle hhost, show 0 + 1 = 0 * s₀.params.cycPerUs + 0 + 1 by rw [Nat.zero_mul]] at hrun
  exact ⟨_, hrun, hb, rfl, rfl, rfl, rfl⟩

variable {n c : Nat} {V V' : ReadView}

/-- An edge between two ticks. -/
theorem State.ReadReaches.count (h : s₀.ReadReaches n c V) (hV : ∀ e, V.phase ≠ .finish e)
    (hc : c + 1 < s₀.params.cycPerUs) : s₀.ReadReaches n (c + 1) V := by
  obtain ⟨s, hrun, hb, hs, rfl, rfl, rfl⟩ := h
  have hedge := State.hostEdge_of_idle hrun.host
  have hx : execRead s.hostEdge = .next s.hostEdge.readClock := by
    rw [hedge]
    exact execRead_of_undecided hs hV
  have hrun' := hrun.edge h₀ hb hx
  rw [hedge, State.readClock_between (by rwa [hrun.params])] at hrun'
  exact ⟨_, hrun', hb, hs, rfl, rfl, rfl⟩

/-- The edge of a tick. -/
theorem State.ReadReaches.tickEdge (h : s₀.ReadReaches n c V) (hV : ∀ e, V.phase ≠ .finish e)
    (hc : c + 1 = s₀.params.cycPerUs) (htick : s₀.TicksTo (n + 1) V V') : s₀.ReadReaches (n + 1) 0 V' := by
  obtain ⟨s, hrun, hb, hs, rfl, rfl, rfl⟩ := h
  have hedge := State.hostEdge_of_idle hrun.host
  have hclock : s.hostEdge.readClock = s.hostEdge.countTick.readTick (s.dec.now + 1) := by
    rw [hedge]
    exact State.readClock_tick (by rw [← hrun.params] at hc; exact hc.ge)
  have hx : execRead s.hostEdge = .next (s.hostEdge.countTick.readTick (s.dec.now + 1)) := by
    rw [← hclock, hedge]
    exact execRead_of_undecided hs hV
  have hindex : s.dec.now * s₀.params.cycPerUs + s.dec.presc + 1 = (s.dec.now + 1) * s₀.params.cycPerUs := by
    rw [Nat.add_assoc, hc, Nat.succ_mul]
  have hrun' := hrun.edge h₀ hb hx
  rw [hindex] at hrun hrun'
  have hsample : s.sample = s₀.tickSample (s.dec.now + 1) := by
    obtain ⟨-, -, -, ⟨hstages, -⟩, -⟩ := h₀.params
    rw [State.sample_eq_sampleAt (by rw [hrun.sync, h₀.sync]; exact hstages), hrun.samples]
    rfl
  obtain ⟨_, _, _, hdec⟩ := s.hostEdge.countTick.readTick_dec (s.dec.now + 1)
  obtain ⟨_, _, _, hregs⟩ := s.hostEdge.countTick.readTick_regs (s.dec.now + 1)
  obtain ⟨-, -, heng, -⟩ := s.hostEdge.countTick.readTick_frame (s.dec.now + 1)
  have hview := htick s.hostEdge.countTick (by rw [hedge]; rfl) (by rw [hedge]; exact hrun.params)
    (by rw [hedge]; exact hrun.copy) (by rw [hedge]; exact hsample)
  refine ⟨_, hrun', ?_, ?_, ?_, ?_, hview⟩
  · rw [closeEdge_regs, hregs, hedge]; exact hb
  · rw [closeEdge_eng, heng, hedge]; exact hs
  · rw [closeEdge_dec, hdec, hedge]; rfl
  · rw [closeEdge_dec, hdec]; rfl

/-- One tick, all its edges. -/
theorem State.ReadReaches.tick (h : s₀.ReadReaches n 0 V) (hV : ∀ e, V.phase ≠ .finish e)
    (htick : s₀.TicksTo (n + 1) V V') : s₀.ReadReaches (n + 1) 0 V' := by
  obtain ⟨-, -, ⟨hcyc, -⟩, -⟩ := h₀.params
  have hcount : ∀ c, c < s₀.params.cycPerUs → s₀.ReadReaches n c V := fun c hc => by
    induction c with
    | zero => exact h
    | succ c ih => exact (ih (by omega)).count h₀ hV hc
  exact (hcount (s₀.params.cycPerUs - 1) (by omega)).tickEdge h₀ hV (by omega) htick

/-- The ticks up to the one the phase waits for, and that one. -/
theorem State.ReadReaches.awaits {m : Nat} (h : s₀.ReadReaches n 0 V) (hV : V.phase.waitsFor s₀.params = some m)
    (hm : n < m) (htick : s₀.TicksTo m V V') : s₀.ReadReaches m 0 V' := by
  have hund : ∀ e, V.phase ≠ .finish e := fun e he => by simp [he, ReadPhase.waitsFor] at hV
  have hwait : ∀ {t}, t < m → s₀.TicksTo t V V := by
    rintro t ht w rfl hp - -
    rw [State.readTick_of_lt (by rw [hp]; exact hV) ht]
  have hsteps : ∀ d, n + d < m → s₀.ReadReaches (n + d) 0 V := fun d hd => by
    induction d with
    | zero => exact h
    | succ d ih => exact (ih (by omega)).tick h₀ hund (hwait hd)
  obtain ⟨d, rfl⟩ : ∃ d, m = n + d + 1 := ⟨m - n - 1, by omega⟩
  exact (hsteps d (by omega)).tick h₀ hund htick

end

/-! ## The phases of the pseudocode -/

/-- Poll number `k` of a low phase, at tick `t`. -/
def ReadView.lowPoll (V : ReadView) (s₀ : State) (t k : Nat) : ReadView :=
  { V with polls := k, phase := lowPhase k s₀.dec.budget.toNat (t + s₀.params.tSettle) (s₀.tickSample t) }

/-- The first poll of a bit, at tick `t`; after bit 39 the checksum. -/
def ReadView.startBit (V : ReadView) (s₀ : State) (t : Nat) : ReadView :=
  if V.bit < 40 then V.lowPoll s₀ t 1
  else { V with polls := 1, phase := .finish (if V.frame.sumOk then .ok else .checksum) }

/-- Poll number `k` of a high phase, at tick `t`. -/
def ReadView.highPoll (V : ReadView) (s₀ : State) (t k : Nat) : ReadView :=
  if s₀.tickSample t then { V with polls := k, phase := highPhase k s₀.dec.budget.toNat }
  else ReadView.startBit { V with bit := V.bit + 1 } s₀ t

/-- The bit sample `v`. -/
def ReadView.takeBit (V : ReadView) (v : Bool) : ReadView :=
  { V with frame := V.frame.setBit V.bit v, nbits := BitVec.ofNat 6 (V.bit + 1) }

section
variable {s₀ : State} {V : ReadView} {t : Nat}

theorem State.lowPoll_readView {w : State} (hp : w.params = s₀.params) (hb : w.dec.budget = s₀.dec.budget) :
    (w.lowPoll t (s₀.tickSample t)).readView = w.readView.lowPoll s₀ t w.dec.polls := by
  rw [State.lowPoll_eq, ReadView.lowPoll, hp, hb]
  rfl

theorem State.highPoll_readView {w : State} (hp : w.params = s₀.params) (hb : w.dec.budget = s₀.dec.budget) :
    (w.highPoll t (s₀.tickSample t)).readView = w.readView.highPoll s₀ t w.dec.polls := by
  unfold ReadView.highPoll
  cases hs : s₀.tickSample t with
  | true =>
    rw [State.highPoll_one, hb]
    rfl
  | false =>
    rw [if_neg Bool.false_ne_true, ReadView.startBit, State.highPoll_false]
    split
    · next hlt =>
      rw [if_pos (show w.readView.bit + 1 < 40 from hlt), ← hs]
      exact State.lowPoll_readView (w := w.endBit) hp hb
    · next hge =>
      rw [if_neg (show ¬w.readView.bit + 1 < 40 from hge)]
      rfl

theorem State.ticksTo_release (hV : V.phase = .release) : s₀.TicksTo s₀.params.p1 V { V with phase := .input } := by
  rintro w rfl hp - -
  rw [w.readTick_release hV (by rw [hp])]
  rfl

theorem State.ticksTo_input (hV : V.phase = .input) : s₀.TicksTo s₀.params.p2 V
    { V with phase := if s₀.tickSample s₀.params.p2 then .finish .noAckLow else .ackLow } := by
  rintro w rfl hp - hs
  rw [w.readTick_input hV (by rw [hp]), hs]
  split <;> rfl

theorem State.ticksTo_ackLow (hV : V.phase = .ackLow) : s₀.TicksTo s₀.params.p3 V
    { V with phase := if s₀.tickSample s₀.params.p3 then .ackHigh else .finish .noAckHigh } := by
  rintro w rfl hp - hs
  rw [w.readTick_ackLow hV (by rw [hp]), hs]
  split <;> rfl

theorem State.ticksTo_ackHigh (hV : V.phase = .ackHigh) :
    s₀.TicksTo s₀.params.p4 V (V.lowPoll s₀ s₀.params.p4 1) := by
  rintro w rfl hp hb hs
  rw [w.readTick_ackHigh hV (by rw [hp]), hs]
  exact State.lowPoll_readView (w := (w.setDState .rxBits).setPolls 1) hp hb

theorem State.ticksTo_low (hV : V.phase = .low) : s₀.TicksTo t V (V.lowPoll s₀ t (V.polls + 1)) := by
  rintro w rfl hp hb hs
  rw [w.readTick_low hV, hs]
  exact State.lowPoll_readView (w := w.setPolls (w.dec.polls + 1)) hp hb

theorem State.ticksTo_settle (hV : V.phase = .settle t) :
    s₀.TicksTo t V ((V.takeBit (s₀.tickSample t)).highPoll s₀ t 1) := by
  rintro w rfl hp hb hs
  rw [w.readTick_settle hV le_rfl, hs, State.bitSample_eq]
  exact State.highPoll_readView (w := w.takeBit _) hp hb

theorem State.ticksTo_high (hV : V.phase = .high) : s₀.TicksTo t V (V.highPoll s₀ t (V.polls + 1)) := by
  rintro w rfl hp hb hs
  rw [w.readTick_high hV, hs]
  exact State.highPoll_readView (w := w.setPolls (w.dec.polls + 1)) hp hb

end

/-- The READ accepted at `s₀` decides `r` at its tick. -/
def State.ReadDecides (s₀ : State) (r : ReadOutcome) : Prop :=
  ∃ i k, s₀.ReadReaches r.tick 0
    { phase := .finish r.err, bit := i, polls := k, frame := r.frame, nbits := BitVec.ofNat 6 r.nbits }

section
variable {s₀ : State} (h₀ : s₀.ReadAccepted) {V : ReadView} {t : Nat}
include h₀

/-- The polls of a low phase go on while they read 0 and the budget is not used up. -/
theorem State.ReadReaches.lowPolls (h : s₀.ReadReaches t 0 (V.lowPoll s₀ t 1)) (j : Nat)
    (hj : j < s₀.dec.budget.toNat) (hz : ∀ i < j, s₀.tickSample (t + i) = false) :
    s₀.ReadReaches (t + j) 0 (V.lowPoll s₀ (t + j) (j + 1)) := by
  induction j with
  | zero => exact h
  | succ j ih =>
    have hphase : (V.lowPoll s₀ (t + j) (j + 1)).phase = .low := by
      rw [ReadView.lowPoll, hz j j.lt_succ_self, lowPhase, if_neg Bool.false_ne_true, if_neg hj.ne]
    exact (ih (by omega) fun i hi => hz i (by omega)).tick h₀ (by simp [hphase]) (State.ticksTo_low hphase)

/-- The polls of a high phase go on while they read 1 and the budget is not used up. -/
theorem State.ReadReaches.highPolls (h : s₀.ReadReaches t 0 (V.highPoll s₀ t 1)) (k : Nat)
    (hk : k < s₀.dec.budget.toNat) (hz : ∀ i < k, s₀.tickSample (t + i) = true) :
    s₀.ReadReaches (t + k) 0 (V.highPoll s₀ (t + k) (k + 1)) := by
  induction k with
  | zero => exact h
  | succ k ih =>
    have hview : V.highPoll s₀ (t + k) (k + 1) = { V with polls := k + 1, phase := .high } := by
      rw [ReadView.highPoll, if_pos (hz k k.lt_succ_self), highPhase, if_neg hk.ne]
    have ih := ih (by omega) fun i hi => hz i (by omega)
    rw [hview] at ih
    exact ih.tick h₀ nofun (State.ticksTo_high rfl)

/-- The last `m` bits (41_decoder.md R128 to R132, R134), by induction on `m`: each is a low phase, the settle delay,
the bit sample and a high phase, whose last poll is the next bit's first. -/
theorem State.ReadReaches.receives (m : Nat) (hm : V.bit + m = 40) (hn : V.nbits = BitVec.ofNat 6 V.bit)
    (h : s₀.ReadReaches t 0 (V.startBit s₀ t)) :
    s₀.ReadDecides (receiveBits s₀.dec.budget.toNat s₀.params.tSettle s₀.tickSample m V.bit t V.frame) := by
  obtain ⟨b, hb⟩ := Nat.exists_eq_add_of_le' (one_le_budget h₀.budget)
  obtain ⟨-, -, -, -, ⟨-, -, -, -, hsettle, -⟩, -⟩ := h₀.params
  induction m generalizing V t with
  | zero =>
    rw [ReadView.startBit, if_neg (by omega), hn] at h
    exact ⟨_, _, h⟩
  | succ m ih =>
    rw [ReadView.startBit, if_pos (by omega)] at h
    rw [receiveBits]
    split
    · next hnone =>
      have hz := firstPoll_eq_none_iff.mp hnone
      have hlast := h.lowPolls h₀ b (by omega) fun i hi => hz i (by omega)
      rw [ReadView.lowPoll, hz b (by omega), lowPhase, if_neg (by decide), if_pos hb.symm, hn] at hlast
      rw [hb]
      exact ⟨_, _, hlast⟩
    · next j hsome =>
      obtain ⟨hj, hone, hz⟩ := firstPoll_eq_some_iff.mp hsome
      have hlow := h.lowPolls h₀ j hj hz
      rw [ReadView.lowPoll, hone] at hlow
      have hhigh := hlow.awaits h₀ rfl (Nat.lt_add_of_pos_right hsettle) (State.ticksTo_settle rfl)
      dsimp only
      split
      · next hnone =>
        have hz := firstPoll_eq_none_iff.mp hnone
        have hlast := hhigh.highPolls h₀ b (by omega) fun i hi => hz i (by omega)
        rw [ReadView.highPoll, hz b (by omega), if_pos (by decide), highPhase, if_pos hb.symm] at hlast
        rw [hb]
        exact ⟨_, _, hlast⟩
      · next k hsome =>
        obtain ⟨hk, hzero, hz⟩ := firstPoll_eq_some_iff.mp hsome
        have hend := hhigh.highPolls h₀ k hk hz
        rw [ReadView.highPoll, hzero, if_neg Bool.false_ne_true] at hend
        exact ih (by dsimp only [ReadView.takeBit]; omega) rfl hend

/-- The clocked READ decides what the pseudocode does, at the same tick. -/
theorem State.ReadAccepted.decides :
    s₀.ReadDecides (readOutcome s₀.params s₀.dec.budget.toNat s₀.tickSample) := by
  obtain ⟨-, -, -, -, ⟨⟨h1, -⟩, ⟨h2, -⟩, ⟨h3, -⟩, ⟨h4, -⟩, -⟩, -⟩ := h₀.params
  have hinput := h₀.begins.awaits h₀ rfl h1 (State.ticksTo_release rfl)
  have hack := hinput.awaits h₀ rfl (Nat.lt_add_of_pos_right h2) (State.ticksTo_input rfl)
  obtain ⟨hs2, h⟩ | ⟨hs2, hs3, h⟩ | ⟨hs2, hs3, h⟩ := readOutcome_cases s₀.params s₀.dec.budget.toNat s₀.tickSample
  · rw [hs2, if_pos rfl] at hack
    rw [h]
    exact ⟨_, _, hack⟩
  · rw [hs2, if_neg Bool.false_ne_true] at hack
    have hhigh := hack.awaits h₀ rfl (Nat.lt_add_of_pos_right h3) (State.ticksTo_ackLow rfl)
    rw [hs3, if_neg Bool.false_ne_true] at hhigh
    rw [h]
    exact ⟨_, _, hhigh⟩
  · rw [hs2, if_neg Bool.false_ne_true] at hack
    have hhigh := hack.awaits h₀ rfl (Nat.lt_add_of_pos_right h3) (State.ticksTo_ackLow rfl)
    rw [hs3, if_pos rfl] at hhigh
    have hbits := hhigh.awaits h₀ rfl (Nat.lt_add_of_pos_right h4) (State.ticksTo_ackHigh rfl)
    rw [h]
    exact State.ReadReaches.receives h₀ 40 rfl rfl
      (V := { phase := .ackHigh, bit := 0, polls := 0, frame := Frame.zero, nbits := 0 }) hbits

/-- The edge after the deciding tick is `finish` (`readFinishes`). -/
theorem State.ReadDecides.completes {r : ReadOutcome} (h : s₀.ReadDecides r) :
    ∃ t, s₀.ReadRun (r.tick * s₀.params.cycPerUs + 2) t ∧
      t.completedWith r.err (if r.err = .ok then Result.ofFrame r.frame else Result.none) ∧
      t.regs.frame = r.frame ∧ t.regs.nbits = BitVec.ofNat 6 r.nbits ∧
      t.regs.reading = (if r.err = .ok then Reading.ofFrame r.frame else Reading.zero) ∧
      t.regs.dstate = (if r.err = .ok then .done else .failed) ∧ t.pin = { oe := true, out := true } := by
  obtain ⟨_, _, s, hrun, hb, hs, -, -, hview⟩ := h
  injection hview with hphase _ _ hframe hnbits
  have hedge := State.hostEdge_of_idle hrun.host
  obtain ⟨x, hx, hpin, hdone, hreading, hds, -, hframe', hnbits', -⟩ :=
    readFinishes s.hostEdge r.err (by rw [hedge]; exact hs) (by rw [hedge]; exact hphase)
  rw [hedge] at hdone hreading hframe' hnbits'
  rw [← hframe, ← hnbits]
  exact ⟨_, hrun.edge h₀ hb hx, hdone, hframe', hnbits', hreading, hds, hpin⟩

end

/-! ## The whole READ -/

/-- Settles O29: the READ decides the pseudocode's outcome at its tick (`State.ReadAccepted.decides`), and the next edge
completes it (`State.ReadDecides.completes`). -/
theorem readAgreesWithThePseudocode : Obligations.ReadAgreesWithThePseudocode := by
  rintro s hwf hacc hbudget hsync r rfl
  have h₀ : s.ReadAccepted := ⟨hwf, hacc, hbudget, hsync⟩
  obtain ⟨-, hbits⟩ := readOutcome_bounds s.params s.dec.budget.toNat s.tickSample (one_le_budget hbudget)
  obtain ⟨t, hrun, hdone, hframe, hnbits, hreading, hds, hpin⟩ := h₀.decides.completes h₀
  refine ⟨t, hrun.run, hdone, hframe, ?_, hreading, hds, hpin, hrun.bufs, hrun.storage, hrun.port, hrun.lastOp, hrun.ie,
    hrun.drop, hrun.budget⟩
  rw [hnbits]
  exact Nat.mod_eq_of_lt (Nat.lt_of_le_of_lt hbits (by decide))

/-- Settles O30: the READ completes as the pseudocode does (`readAgreesWithThePseudocode`), whose tick is bounded
(`readOutcome_bounds`). -/
theorem readAlwaysCompletes : Obligations.ReadAlwaysCompletes := by
  intro s hwf hacc hbudget hsync
  obtain ⟨htick, -⟩ := readOutcome_bounds s.params s.dec.budget.toNat s.tickSample (one_le_budget hbudget)
  obtain ⟨t, hrun, ⟨hb, hdone, -⟩, -⟩ := readAgreesWithThePseudocode s hwf hacc hbudget hsync _ rfl
  exact ⟨_, t, Nat.add_le_add_right (Nat.mul_le_mul_right _ htick) 2, hrun, hb, hdone⟩

end Sys2Proof.Machine
end

section
/-! The commands on a sample buffer (spec/42_ring_buffer.md): what INIT, PUSH, AT and AVG answer for a buffer that meets
its invariant (R150 to R154), that no field of such a buffer overflows (R156), and what a sequence of pushes leaves
(R158). -/

namespace Sys2Proof.Machine

/-! ## INIT -/

/-- Settles O37: INIT's completion is that of its definition, and the rest are the frames of `exec`. -/
theorem initEmptiesItsBuffer : Obligations.InitEmptiesItsBuffer := by
  intro s b
  have h : exec (.init b) s = .next ((s.setBuf b (s.buf b).clear).complete .ok Result.none) := rfl
  have hbuf : ((s.setBuf b (s.buf b).clear).complete .ok Result.none).buf b = (s.buf b).clear := s.buf_setBuf_same b _
  obtain ⟨⟨-, -, hhost, -⟩, hdec, hbufs⟩ := exec_leavesAllBut h nofun nofun
  obtain ⟨hport, hstorage⟩ := exec_keepsMedium h nofun nofun
  refine ⟨_, h, ⟨rfl, rfl, rfl, rfl⟩, congrArg Buf.start hbuf, congrArg Buf.count hbuf, congrArg Buf.sum hbuf, ?_, ?_,
    rfl, hhost, hdec, hport, ?_⟩
  · exact fun c j => exec_read_sram h nofun nofun
  · intro c hc
    rw [State.KeepsDescriptor, hbufs c fun hbc => hc (Option.some.inj hbc).symm]
    exact ⟨rfl, rfl, rfl⟩
  · exact fun a => congrArg (Memory.read · a) hstorage

/-! ## Reading a buffer that meets its invariant -/

/-- A logical index below the count names a written slot, and its byte is that entry of the logical contents. -/
theorem Buf.Inv.read_slot {x : Buf} {cap i : Nat} (hx : x.Inv cap) (hi : i < x.count.toNat) :
    ∃ v, Memory.read x.sram (x.slot cap i) = some v ∧ (x.logical cap)[i]? = some v := by
  obtain ⟨v, hv⟩ := Option.isSome_iff_exists.mp (hx.read_isSome hi)
  exact ⟨v, hv, by simp [Buf.logical, Buf.cells, hi, hv]⟩

/-- The oldest sample of a buffer that is not empty stands in the slot `start`. -/
theorem Buf.Inv.read_start {x : Buf} {cap : Nat} (hx : x.Inv cap) (hn : 0 < x.count.toNat) :
    ∃ old, Memory.read x.sram x.start.toNat = some old ∧ x.logical cap = old :: (x.logical cap).tail := by
  obtain ⟨old, hold, -⟩ := hx.read_slot hn
  obtain ⟨hs, -⟩ := id hx
  rw [Buf.slot_zero hs] at hold
  exact ⟨old, hold, Buf.logical_eq_cons hs hn hold⟩

/-- The average of the samples is again a byte. -/
theorem Buf.Inv.sum_div_count_le {x : Buf} {cap : Nat} (hx : x.Inv cap) : x.sum.toNat / x.count.toNat ≤ 255 :=
  Nat.div_le_of_le_mul (Nat.mul_comm 255 _ ▸ hx.sum_le)

theorem State.sramRead_of_read {s : State} {b : BufId} {j : Nat} {v : Byte}
    (h : Memory.read (s.buf b).sram j = some v) : s.sramRead b j = v := by
  rw [State.sramRead, h, Option.getD_some]

/-- Settles O41: the sum is at most 255 times the count (`Buf.Inv.sum_le`), and the oldest sample is one of its terms
(`Buf.Inv.read_start`). -/
theorem bufferWidthsNeverOverflow : Obligations.BufferWidthsNeverOverflow := by
  intro x cap hx hcap
  have hle := hx.sum_le
  obtain ⟨-, hn, hsum, -⟩ := id hx
  refine ⟨by omega, by omega, fun hpos => ⟨?_, hx.sum_div_count_le⟩⟩
  obtain ⟨old, hold, hcons⟩ := hx.read_start hpos
  refine ⟨old, hold, ?_⟩
  rw [hsum, hcons, total_cons]
  exact Nat.le_add_right _ _

/-! ## AT and AVG -/

theorem Result.some_toNat (v : Byte) : Result.some v.toNat = { valid := true, value := v.setWidth 17 } := by
  rw [Result.some, BitVec.ofNat_toNat]

/-- Settles O39: below the count the byte of the slot is listed (`Buf.Inv.read_slot`), so AT reads it and no draw. -/
theorem atReadsTheLogicalIndex : Obligations.AtReadsTheLogicalIndex := by
  intro s b i hx
  obtain ⟨t, h⟩ : ∃ t, execAtIndex b i s = .next t := ⟨_, rfl⟩
  obtain ⟨hi, rfl⟩ | ⟨hi, rfl⟩ := execAtIndex_next h
  · exact ⟨_, h, rfl, fun _ => ⟨rfl, rfl, rfl, rfl⟩, fun hlt => absurd hi (Nat.not_le_of_lt hlt)⟩
  · refine ⟨_, h, rfl, fun hle => absurd hi (Nat.not_lt_of_le hle), fun _ => ?_⟩
    obtain ⟨v, hread, hentry⟩ := hx.read_slot hi
    refine ⟨v, hread, hentry, rfl, rfl, rfl, ?_⟩
    rw [State.complete_regs, State.sramRead_of_read hread, Result.some_toNat]

/-- Settles O40: the quotient fits its 17 bits, being at most 255 (`Buf.Inv.sum_div_count_le`). -/
theorem avgDividesTheSum : Obligations.AvgDividesTheSum := by
  intro s b hx
  obtain ⟨t, h⟩ : ∃ t, execAvg b s = .next t := ⟨_, rfl⟩
  obtain ⟨hn, rfl⟩ | ⟨hn, rfl⟩ := execAvg_next h
  · exact ⟨_, h, rfl, fun _ => ⟨rfl, rfl, rfl, rfl⟩, fun hne => absurd hn hne⟩
  · have hle := hx.sum_div_count_le
    have hvalue : (BitVec.ofNat 17 ((s.buf b).sum.toNat / (s.buf b).count.toNat)).toNat =
        (s.buf b).sum.toNat / (s.buf b).count.toNat := Nat.mod_eq_of_lt (by omega)
    obtain ⟨-, -, hsum, -⟩ := hx
    refine ⟨_, h, rfl, fun hz => absurd hz hn, fun _ => ⟨⟨rfl, rfl, rfl, rfl⟩, ?_, ?_⟩⟩
    · exact hsum ▸ hvalue
    · exact hvalue.trans_le hle

/-! ## PUSH -/

/-- Settles O38: the buffer afterwards is `Buf.push` of the one before, whose sum is exact again (`Buf.Inv.push`), so that
the sums differ as the logical contents do. -/
theorem pushAppendsAndEvictsOldest : Obligations.PushAppendsAndEvictsOldest := by
  intro s b v hx hpos hcap
  have hbuf : ((s.pushStep b v).complete .ok Result.none).buf b =
      (s.buf b).push (s.cap b) (s.sramRead b (s.buf b).start.toNat) v := s.pushStep_buf b v
  have hold : (s.buf b).count.toNat = s.cap b →
      Memory.read (s.buf b).sram (s.buf b).start.toNat = some (s.sramRead b (s.buf b).start.toNat) := fun h => by
    obtain ⟨old, hread, -⟩ := hx.read_start (h ▸ hpos)
    rw [State.sramRead_of_read hread, hread]
  obtain ⟨-, -, hsum', -⟩ := hx.push hcap hold v
  obtain ⟨hs, -, hsum, -⟩ := id hx
  refine ⟨_, rfl, ⟨rfl, rfl, rfl, rfl⟩, ?_, fun h => ?_, fun h => ?_⟩
  all_goals rw [hbuf]
  · rw [Buf.push_sram]
    exact Memory.read_write_same _ _ _
  · rw [Buf.logical_push_of_not_full hcap h] at hsum' ⊢
    refine ⟨?_, ?_, ?_, rfl⟩
    · rw [Buf.push_of_not_full h]
    · rw [Buf.push_of_not_full h]
    · rw [hsum', hsum, total_append, total_cons, total_nil, Nat.add_zero]
  · have hcons := Buf.logical_eq_cons hs (h ▸ hpos) (hold h)
    rw [Buf.logical_push_of_full hcap hpos h] at hsum' ⊢
    refine ⟨?_, Buf.start_push_of_full hcap hpos h _ v, ⟨_, hcons, ?_⟩, rfl⟩
    · rw [Buf.push_of_full h]
    · rw [hsum', hsum, congrArg total hcons, total_append, total_cons, total_cons, total_nil]
      omega

/-! ## Pushes into an emptied buffer -/

/-- A push keeps the sum exact, if a full buffer's oldest sample is the one taken off (42_ring_buffer.md R151, R155);
unlike `Buf.Inv.push` it asks nothing of the sample memory, which INIT leaves as it is. -/
theorem Buf.sum_push {x : Buf} {cap : Nat} (hcap : cap ≤ 65535) (hpos : 0 < cap) (hn : x.count.toNat ≤ cap)
    (hsum : x.sum.toNat = total (x.logical cap)) {old : Byte}
    (hold : x.count.toNat = cap → x.logical cap = old :: (x.logical cap).tail) (v : Byte) :
    (x.push cap old v).sum.toNat = total ((x.push cap old v).logical cap) := by
  have hle := total_le (x.logical cap)
  rw [Buf.length_logical, ← hsum] at hle
  have hv := v.isLt
  rcases Nat.lt_or_eq_of_le hn with h | h
  · rw [Buf.logical_push_of_not_full hcap h, Buf.push_of_not_full h]
    simp only [total_append, total_cons, total_nil, ← hsum, BitVec.toNat_add, BitVec.toNat_setWidth]
    omega
  · have htotal : x.sum.toNat = old.toNat + total (x.logical cap).tail := by
      rw [hsum, ← total_cons, ← hold h]
    rw [Buf.logical_push_of_full hcap hpos h, Buf.push_of_full h]
    simp only [total_append, total_cons, total_nil, BitVec.toNat_add, BitVec.toNat_sub, BitVec.toNat_setWidth]
    omega

/-- What `vs` pushed into an emptied buffer leaves of it (42_ring_buffer.md R158); the count follows
(`Buf.HoldsLatest.count`). -/
def Buf.HoldsLatest (x : Buf) (cap : Nat) (vs : List Byte) : Prop :=
  x.start.toNat = (vs.length - cap) % cap ∧ x.logical cap = vs.drop (vs.length - cap) ∧
  x.sum.toNat = total (x.logical cap)

theorem Buf.pushAll_concat (x : Buf) (cap : Nat) (vs : List Byte) (v : Byte) :
    x.pushAll cap (vs ++ [v]) =
      (x.pushAll cap vs).push cap ((Memory.read (x.pushAll cap vs).sram (x.pushAll cap vs).start.toNat).getD 0) v := by
  simp [Buf.pushAll]

/-- As `Buf.logical_eq_cons`, of a slot that may list nothing and then counts as 0, as `Buf.pushAll` reads it. -/
theorem Buf.logical_eq_cons_getD {x : Buf} {cap : Nat} (hs : x.start.toNat < cap) (hn : 0 < x.count.toNat) :
    x.logical cap = (Memory.read x.sram x.start.toNat).getD 0 :: (x.logical cap).tail := by
  obtain ⟨n, hn⟩ : ∃ n, x.count.toNat = n + 1 := ⟨x.count.toNat - 1, by omega⟩
  simp [Buf.logical, Buf.cells, hn, List.range_succ_eq_map, Buf.slot_zero hs]

theorem Buf.HoldsLatest.count {x : Buf} {cap : Nat} {vs : List Byte} (h : x.HoldsLatest cap vs) :
    x.count.toNat = min vs.length cap := by
  obtain ⟨-, hlog, -⟩ := h
  rw [← x.length_logical cap, hlog, List.length_drop]
  omega

theorem Buf.holdsLatest_clear (x : Buf) (cap : Nat) : x.clear.HoldsLatest cap [] := by
  have hlog : x.clear.logical cap = [] := by rw [Buf.logical, Buf.cells_of_empty rfl, List.map_nil]
  refine ⟨?_, ?_, ?_⟩
  · simp [Buf.clear]
  · simp [hlog]
  · rw [hlog]
    rfl

theorem Buf.HoldsLatest.push {x : Buf} {cap : Nat} {vs : List Byte} (hx : x.HoldsLatest cap vs) (hpos : 0 < cap)
    (hcap : cap ≤ 65535) (v : Byte) :
    (x.push cap ((Memory.read x.sram x.start.toNat).getD 0) v).HoldsLatest cap (vs ++ [v]) := by
  have hcount := hx.count
  obtain ⟨hstart, hlog, hsum⟩ := hx
  have hs : x.start.toNat < cap := hstart ▸ Nat.mod_lt _ hpos
  have hsum' := Buf.sum_push hcap hpos (by omega) hsum (fun h => Buf.logical_eq_cons_getD hs (h ▸ hpos)) v
  have hlength : (vs ++ [v]).length = vs.length + 1 := List.length_append
  rcases Nat.lt_or_ge vs.length cap with hlt | hge
  · have h : x.count.toNat < cap := by omega
    have hall : vs.length - cap = 0 := Nat.sub_eq_zero_of_le hlt.le
    have hall' : (vs ++ [v]).length - cap = 0 := by omega
    refine ⟨?_, ?_, hsum'⟩
    · rw [Buf.push_of_not_full h, hstart, hall, hall']
    · rw [Buf.logical_push_of_not_full hcap h, hlog, hall, hall', List.drop_zero, List.drop_zero]
  · have h : x.count.toNat = cap := by omega
    have hone : (vs ++ [v]).length - cap = vs.length - cap + 1 := by omega
    refine ⟨?_, ?_, hsum'⟩
    · rw [Buf.start_push_of_full hcap hpos h, hstart, hone, Nat.mod_add_mod]
    · rw [Buf.logical_push_of_full hcap hpos h, hlog, hone, List.tail_drop, List.drop_append_of_le_length (by omega)]

theorem Buf.holdsLatest_pushAll (x : Buf) {cap : Nat} (hpos : 0 < cap) (hcap : cap ≤ 65535) (vs : List Byte) :
    (x.clear.pushAll cap vs).HoldsLatest cap vs := by
  induction vs using List.reverseRecOn with
  | nil => exact x.holdsLatest_clear cap
  | append_singleton vs v ih =>
    rw [Buf.pushAll_concat]
    exact ih.push hpos hcap v

/-- Settles O42: by induction on the pushes (`Buf.holdsLatest_pushAll`). -/
theorem pushesKeepTheLatest : Obligations.PushesKeepTheLatest := by
  intro x cap vs hpos hcap
  have hlatest := x.holdsLatest_pushAll hpos hcap vs
  obtain ⟨hstart, hlog, hsum⟩ := id hlatest
  refine ⟨hlatest.count, ?_, hlog, hlog ▸ hsum⟩
  rw [hstart]
  split
  · next hle => rw [Nat.sub_eq_zero_of_le hle, Nat.zero_mod]
  · rfl

end Sys2Proof.Machine
end

section
/-! SAVE and LOAD one clock edge at a time (spec/43_persistence.md R175 to R178, 20_memory.md R65 to R69): the first step
with its bounds test, and the edge that acknowledges one byte of the block. Each way on of an edge is one equation, under
its condition. -/

namespace Sys2Proof.Machine

/-! ## The first step -/

section
variable {s : State} {b : BufId} {off : Half}

theorem execSave_of_outside (hs : s.eng.started = false)
    (h : s.params.storeSize < off.toNat + 2 + (s.buf b).count.toNat) :
    execSave b off s = .next (s.raise .storageBounds) := by
  simp [execSave, hs, outOfBounds, h]

theorem execSave_of_fits (hs : s.eng.started = false)
    (h : off.toNat + 2 + (s.buf b).count.toNat ≤ s.params.storeSize) :
    execSave b off s = .next (s.begin.issueWrite off 0 (s.blockByte b 0)) := by
  simp [execSave, hs, outOfBounds, Nat.not_lt_of_le h]

theorem execLoad_of_outside (hs : s.eng.started = false) (h : s.params.storeSize < off.toNat + 2) :
    execLoad b off s = .next ((s.setBuf b (s.buf b).clear).raise .storageBounds) := by
  simp [execLoad, hs, outOfBounds, h]

theorem execLoad_of_fits (hs : s.eng.started = false) (h : off.toNat + 2 ≤ s.params.storeSize) :
    execLoad b off s = .next ((s.setBuf b (s.buf b).clear).begin.issueRead off 0) := by
  simp [execLoad, hs, outOfBounds, Nat.not_lt_of_le h]

end

/-- Byte 0 of a block stands at the block's own offset. -/
theorem ofNat_offset_zero (off : Half) : BitVec.ofNat 16 (off.toNat + 0) = off := by
  rw [Nat.add_zero, BitVec.ofNat_toNat, BitVec.setWidth_eq]

/-- Settles O44: the bounds test is the first thing SAVE does, and its two answers are those of its definition. -/
theorem saveTestsBoundsFirst : Obligations.SaveTestsBoundsFirst := by
  intro s b off hs
  constructor
  · intro h
    exact ⟨_, execSave_of_outside hs h, ⟨rfl, rfl, rfl, rfl⟩, fun _ => rfl, rfl, rfl⟩
  · intro h
    refine ⟨_, execSave_of_fits hs h, rfl, fun _ => rfl, rfl, rfl, rfl, ?_⟩
    rw [State.issueWrite_port, ofNat_offset_zero]
    rfl

/-- Settles O47: both answers of LOAD's first step are made from the state with the buffer cleared, and neither writes a
byte (`exec_read_sram`). -/
theorem loadEmptiesThenTestsBounds : Obligations.LoadEmptiesThenTestsBounds := by
  intro s b off hs
  have hclear := s.buf_setBuf_same b (s.buf b).clear
  have samples : ∀ {t}, exec (.load b off) s = .next t → s.KeepsSamples t := fun h c j =>
    exec_read_sram h nofun fun _ _ hstarted => absurd hstarted (by simp [hs])
  rcases Nat.lt_or_ge s.params.storeSize (off.toNat + 2) with h | h
  · have hexec : exec (.load b off) s = _ := execLoad_of_outside hs h
    exact ⟨_, hexec, congrArg Buf.start hclear, congrArg Buf.count hclear, congrArg Buf.sum hclear, samples hexec,
      fun _ => rfl, fun _ => ⟨⟨rfl, rfl, rfl, rfl⟩, rfl⟩, fun hle => absurd h (Nat.not_lt_of_le hle)⟩
  · have hexec : exec (.load b off) s = _ := execLoad_of_fits hs h
    exact ⟨_, hexec, congrArg Buf.start hclear, congrArg Buf.count hclear, congrArg Buf.sum hclear, samples hexec,
      fun _ => rfl, fun hlt => absurd hlt (Nat.not_lt_of_le h),
      fun _ => ⟨rfl, rfl, rfl, rfl, rfl, ofNat_offset_zero off⟩⟩

/-! ## An acknowledged edge -/

theorem State.storageAccess_of_ack {s : State} (hr : s.port.req = true) (hack : s.ackNow = true)
    (ha : s.port.addr.toNat < s.params.storeSize) (k : Byte → State → State) :
    s.storageAccess k = .next (k (s.storageRead s.port.addr.toNat) s.performAccess) := by
  simp [State.storageAccess, hr, hack, ha]

theorem execSave_of_acknowledged {s : State} (h : s.acknowledged) (b : BufId) (off : Half) :
    execSave b off s = .next (s.performAccess.saveNext b off) := by
  obtain ⟨hs, hr, hack, ha⟩ := h
  rw [execSave_of_started hs, State.storageAccess_of_ack hr hack ha]

/-- A read changes nothing (20_memory.md R71). -/
theorem State.performAccess_of_read {s : State} (hw : s.port.we = false) : s.performAccess = s := by
  simp [State.performAccess, hw]

theorem execLoad_of_acknowledged {s : State} (h : s.acknowledged) (hw : s.port.we = false) (b : BufId) (off : Half) :
    execLoad b off s = .next (s.loadNext b off (s.storageRead s.port.addr.toNat)) := by
  obtain ⟨hs, hr, hack, ha⟩ := h
  rw [execLoad_of_started hs, State.storageAccess_of_ack hr hack ha, State.performAccess_of_read hw]

/-- An acknowledged write stores its byte (20_memory.md R66). -/
theorem State.read_performAccess_of_write {s : State} (hw : s.port.we = true) :
    Memory.read s.performAccess.storage s.port.addr.toNat = some s.port.wdata := by
  rw [State.performAccess_storage, if_pos hw, Memory.read_write_same]

/-! ## The bytes of SAVE's block -/

theorem State.blockByte_performAccess (s : State) (b : BufId) (j : Nat) :
    s.performAccess.blockByte b j = s.blockByte b j := by
  unfold State.performAccess
  split <;> rfl

/-- Byte `j + 2` of the block is the sample of logical index `j`. -/
theorem State.blockByte_of_cell {s : State} {b : BufId} {j : Nat} {v : Byte}
    (h : ((s.buf b).cells (s.cap b))[j]? = some (some v)) : s.blockByte b (j + 2) = v := by
  rw [Buf.cells, List.getElem?_map, Option.map_eq_some_iff] at h
  obtain ⟨i, hi, hread⟩ := h
  obtain ⟨hj, hi⟩ := List.getElem?_eq_some_iff.mp hi
  rw [List.getElem_range hj] at hi
  subst hi
  exact State.sramRead_of_read hread

section
variable {s : State} {b : BufId} {off : Half}

theorem State.saveNext_of_more (h : s.eng.idx + 1 < (s.buf b).count.toNat + 2) :
    s.saveNext b off = s.issueWrite off (s.eng.idx + 1) (s.blockByte b (s.eng.idx + 1)) := if_pos h

theorem State.saveNext_of_last (h : (s.buf b).count.toNat + 2 ≤ s.eng.idx + 1) :
    s.saveNext b off = s.endAccess.complete .ok (Result.some ((s.buf b).count.toNat + 2)) :=
  if_neg (Nat.not_lt_of_le h)

/-- A byte of SAVE is acknowledged and another follows. -/
theorem execSave_of_more (h : s.acknowledged) (hmore : s.eng.idx + 1 < (s.buf b).count.toNat + 2) :
    execSave b off s =
      .next (s.performAccess.issueWrite off (s.eng.idx + 1) (s.blockByte b (s.eng.idx + 1))) := by
  have hbuf := State.buf_congr s.performAccess_bufs b
  rw [execSave_of_acknowledged h, State.saveNext_of_more (by simpa [hbuf] using hmore), State.performAccess_eng,
    State.blockByte_performAccess]

/-- The last byte of SAVE is acknowledged. -/
theorem execSave_of_last (h : s.acknowledged) (hlast : (s.buf b).count.toNat + 2 ≤ s.eng.idx + 1) :
    execSave b off s =
      .next (s.performAccess.endAccess.complete .ok (Result.some ((s.buf b).count.toNat + 2))) := by
  have hbuf := State.buf_congr s.performAccess_bufs b
  rw [execSave_of_acknowledged h, State.saveNext_of_last (by simpa [hbuf] using hlast), hbuf]

end

/-- Settles O45: the access is performed first, and then a byte follows (`execSave_of_more`) or none
(`execSave_of_last`). -/
theorem saveStoresOneByteAnAck : Obligations.SaveStoresOneByteAnAck := by
  intro s b off hack hw
  have hstored := State.read_performAccess_of_write hw
  have hkept : ∀ a, a ≠ s.port.addr.toNat → Memory.read s.performAccess.storage a = Memory.read s.storage a :=
    fun a ha => State.read_performAccess fun _ => ha
  rcases Nat.lt_or_ge (s.eng.idx + 1) ((s.buf b).count.toNat + 2) with h | h
  · refine ⟨_, execSave_of_more hack h, s.performAccess_bufs, hstored, hkept, fun _ => ?_, fun hle =>
      absurd h (Nat.not_lt_of_le hle)⟩
    refine ⟨s.performAccess_regs, rfl, rfl, rfl, rfl, fun h1 => ?_, fun v h2 hv => ?_⟩
    · rw [State.issueWrite_port, h1]
      rfl
    · have hi : s.eng.idx - 1 + 2 = s.eng.idx + 1 := by omega
      rw [State.issueWrite_port, ← hi]
      exact State.blockByte_of_cell hv
  · have hexec := execSave_of_last (off := off) hack h
    obtain ⟨⟨-, -, hhost, -⟩, hdec, -⟩ := execSave_leavesAllBut hexec
    exact ⟨_, hexec, s.performAccess_bufs, hstored, hkept, fun hlt => absurd hlt (Nat.not_lt_of_le h),
      fun _ => ⟨rfl, ⟨rfl, rfl, rfl, rfl⟩, hhost, hdec⟩⟩

/-! ## The bytes of LOAD's block -/

section
variable {s : State} {b : BufId} {off : Half} {x : Byte}

theorem State.loadNext_of_low (hi : s.eng.idx = 0) :
    s.loadNext b off x = (s.setLen (0#8 ++ x)).issueRead off 1 := by
  simp [State.loadNext, hi]

theorem State.loadNext_of_outside (hi : s.eng.idx = 1)
    (h : s.params.storeSize < off.toNat + 2 + (s.lengthRead x).toNat) :
    s.loadNext b off x = (s.setLen (s.lengthRead x)).endAccess.raise .storageBounds := by
  rw [State.lengthRead] at h ⊢
  simp only [State.loadNext, hi, outOfBounds, decide_eq_true h, if_true]

theorem State.loadNext_of_empty (hi : s.eng.idx = 1)
    (h : off.toNat + 2 + (s.lengthRead x).toNat ≤ s.params.storeSize) (hl : s.lengthRead x = 0) :
    s.loadNext b off x = (s.setLen (s.lengthRead x)).endAccess.complete .ok (Result.some 2) := by
  rw [State.lengthRead] at h hl ⊢
  simp only [State.loadNext, hi, outOfBounds, decide_eq_false (Nat.not_lt_of_le h), Bool.false_eq_true, if_false,
    if_pos hl]

theorem State.loadNext_of_header (hi : s.eng.idx = 1)
    (h : off.toNat + 2 + (s.lengthRead x).toNat ≤ s.params.storeSize) (hl : s.lengthRead x ≠ 0) :
    s.loadNext b off x = (s.setLen (s.lengthRead x)).issueRead off 2 := by
  rw [State.lengthRead] at h hl ⊢
  simp only [State.loadNext, hi, outOfBounds, decide_eq_false (Nat.not_lt_of_le h), Bool.false_eq_true, if_false,
    if_neg hl]

theorem State.loadNext_of_sample (hi : 2 ≤ s.eng.idx) (h : s.eng.idx + 1 < s.eng.len.toNat + 2) :
    s.loadNext b off x = (s.pushStep b x).issueRead off (s.eng.idx + 1) := by
  obtain ⟨j, hj⟩ := Nat.exists_eq_add_of_le' hi
  have hlt : j + 1 < s.eng.len.toNat := by omega
  simp only [State.loadNext, hj, if_pos hlt]

theorem State.loadNext_of_last (hi : 2 ≤ s.eng.idx) (h : s.eng.len.toNat + 2 ≤ s.eng.idx + 1) :
    s.loadNext b off x = (s.pushStep b x).endAccess.complete .ok (Result.some (s.eng.len.toNat + 2)) := by
  obtain ⟨j, hj⟩ := Nat.exists_eq_add_of_le' hi
  have hle : ¬ j + 1 < s.eng.len.toNat := by omega
  simp only [State.loadNext, hj, if_neg hle]

end

/-- Settles O48: LOAD goes on from the state at the edge, the read having changed nothing (`execLoad_of_acknowledged`);
the clauses are split by the byte's index as the equations of `State.loadNext` are. -/
theorem loadPushesOneByteAnAck : Obligations.LoadPushesOneByteAnAck := by
  intro s b off x hack hw hx
  have hexec : execLoad b off s = .next (s.loadNext b off x) := hx ▸ execLoad_of_acknowledged hack hw b off
  obtain ⟨⟨-, -, hhost, -⟩, hdec, -⟩ := execLoad_leavesAllBut hexec
  refine ⟨_, hexec, fun a => congrArg (Memory.read · a) (s.loadNext_storage b off x), fun hi => ?_, fun hi => ?_,
    fun hi => ?_⟩
  · rw [State.loadNext_of_low hi]
    refine ⟨rfl, rfl, ?_, rfl, rfl, rfl, rfl⟩
    show 0#8 ++ x = x.setWidth 16
    rw [BitVec.setWidth_eq_append (by decide)]
    rfl
  · have hlen : (s.loadNext b off x).eng.len = s.lengthRead x := by
      obtain ⟨hi', -⟩ | ⟨-, -, h⟩ | ⟨-, -, h⟩ | ⟨-, -, -, h⟩ | ⟨hi', -⟩ | ⟨hi', -⟩ := s.loadNext_cases b off x
      case inl | inr.inr.inr.inr.inl | inr.inr.inr.inr.inr => omega
      all_goals rw [h]; rfl
    refine ⟨(s.loadNext_bufs b off x).trans (if_neg (by omega)), hlen, ?_⟩
    rw [hlen]
    refine ⟨fun h => ?_, fun h hl => ?_, fun h hl => ?_⟩
    · rw [State.loadNext_of_outside hi h]
      exact ⟨⟨rfl, rfl, rfl, rfl⟩, rfl⟩
    · rw [State.loadNext_of_empty hi h hl]
      exact ⟨⟨rfl, rfl, rfl, rfl⟩, rfl⟩
    · rw [State.loadNext_of_header hi h hl]
      exact ⟨rfl, rfl, rfl, rfl, rfl⟩
  · refine ⟨?_, fun h => ?_, fun h => ⟨?_, ?_, hhost, hdec⟩⟩
    · rw [State.buf_congr ((s.loadNext_bufs b off x).trans (if_pos hi))]
      exact s.pushStep_buf b x
    · rw [State.loadNext_of_sample hi h]
      exact ⟨rfl, rfl, rfl, rfl, rfl⟩
    · rw [State.loadNext_of_last hi h]
      rfl
    · rw [State.loadNext_of_last hi h]
      exact ⟨rfl, rfl, rfl, rfl⟩

end Sys2Proof.Machine
end

section
/-! Whole SAVEs and LOADs (spec/43_persistence.md R175, R177, R179, R180). From its acceptance, with an idle host and every
access acknowledged, a command is followed edge by edge (`State.IdleRun`): `State.SaveRun` and `State.LoadRun` say what
stands where byte `j` of the block is in transfer, each edge leads from one byte to the next, and the last one completes
the command. -/

namespace Sys2Proof.Machine

/-! ## A command and an idle host, edge by edge -/

theorem State.ackNow_eq_ackAt (s : State) : s.ackNow = s.ackAt 0 := by
  rw [State.ackNow, State.ackAt, List.head?_eq_getElem?]
  rfl

theorem State.ackAt_closeEdge (s t : State) (k : Nat) : (s.closeEdge t).ackAt k = s.ackAt (k + 1) := by
  simp [State.ackAt, State.closeEdge, Nat.add_assoc, Nat.add_comm 1]

/-- The state an idle host hands to the engine. -/
def State.quiet (s : State) : State := { s with regs := { s.regs with busRdata := none } }

@[simp] theorem State.quiet_params (s : State) : s.quiet.params = s.params := rfl

@[simp] theorem State.quiet_eng (s : State) : s.quiet.eng = s.eng := rfl

@[simp] theorem State.quiet_port (s : State) : s.quiet.port = s.port := rfl

/-- `s` is the state `k` edges after `s₀`, of the invariant, the word accepted at `s₀` being still the last one. -/
structure State.IdleRun (s₀ : State) (k : Nat) (s : State) : Prop where
  run : Host.Core.run Sys2Proof.core k s₀ = .next s
  inv : s.Inv
  host : s.env.host = []
  params : s.params = s₀.params
  cmd : s.eng.cmd = s₀.eng.cmd
  cycle : s.env.cycle = s₀.env.cycle + k
  acks : ∀ j, s.ackAt j = s₀.ackAt (k + j)

theorem State.idleRun_zero {s : State} (hinv : s.Inv) (hhost : s.env.host = []) : s.IdleRun 0 s :=
  ⟨rfl, hinv, hhost, rfl, rfl, rfl, fun j => by rw [Nat.zero_add]⟩

section
variable {s₀ s x : State} {k : Nat}

theorem State.IdleRun.cap (h : s₀.IdleRun k s) (b : BufId) : s.cap b = s₀.cap b := by
  rw [State.cap, State.cap, h.params]

/-- One more edge with the command in progress. -/
theorem State.IdleRun.edge {i : Instr} (h : s₀.IdleRun k s) (hb : s.regs.busy = true)
    (hd : decode s₀.eng.cmd = .instr i) (hx : exec i s.quiet = .next x) : s₀.IdleRun (k + 1) (s.closeEdge x) := by
  obtain ⟨hwf, -⟩ := id h.inv
  have hr : s.resetNow = false := by rw [State.resetNow, h.host]; rfl
  have hstep : step s = .next (s.closeEdge x) := by
    rw [step_of_instr (State.noMove_of_idle hwf h.host) hr hb (h.cmd ▸ hd), State.hostEdge_of_idle h.host,
      ← State.quiet, hx]
    rfl
  obtain ⟨⟨hparams, -, -, hcmd⟩, -⟩ := exec_engineFrame hx
  exact
    { run := run_succ h.run hstep
      inv := everyStepKeepsTheInvariant s _ h.inv hstep
      host := by rw [State.closeEdge, State.hostAfter, h.host]
      params := hparams.trans h.params
      cmd := hcmd.trans h.cmd
      cycle := congrArg (· + 1) h.cycle
      acks := fun j => by rw [State.ackAt_closeEdge, h.acks, Nat.add_right_comm, Nat.add_assoc] }

/-- A request in states of the invariant is acknowledged, where the medium does so in this cycle. -/
theorem State.IdleRun.acknowledged (h : s₀.IdleRun k s) (hs : s.eng.started = true) (hr : s.port.req = true)
    (hack : s₀.ackAt k = true) : s.quiet.acknowledged := by
  obtain ⟨-, htr⟩ := s.inv_iff.mp h.inv
  refine ⟨hs, hr, ?_, htr.addr_lt hr⟩
  show s.ackNow = true
  rw [State.ackNow_eq_ackAt, h.acks, Nat.add_zero, hack]

end

/-! ## Blocks in the medium -/

theorem Memory.read_writeBytes_other (m : Memory) (a : Nat) (vs : List Byte) {c : Nat}
    (h : c < a ∨ a + vs.length ≤ c) : Memory.read (Memory.writeBytes m a vs) c = Memory.read m c := by
  induction vs generalizing m a with
  | nil => rfl
  | cons v vs ih =>
    rw [List.length_cons] at h
    rw [Memory.writeBytes, ih _ _ (by omega), Memory.read_write_other m (by omega)]

theorem Memory.holds_writeBytes (m : Memory) (a : Nat) (vs : List Byte) :
    Memory.holds (Memory.writeBytes m a vs) a vs := by
  induction vs generalizing m a with
  | nil => exact nofun
  | cons v vs ih =>
    intro j hj
    cases j with
    | zero =>
      show Memory.read (Memory.writeBytes (Memory.write m a v) (a + 1) vs) a = some v
      rw [Memory.read_writeBytes_other _ _ _ (.inl (Nat.lt_succ_self a)), Memory.read_write_same]
    | succ j =>
      have h := ih (Memory.write m a v) (a + 1) j (Nat.lt_of_succ_lt_succ hj)
      rwa [Nat.add_right_comm] at h

theorem Memory.writeBytes_concat (m : Memory) (a : Nat) (vs : List Byte) (v : Byte) :
    Memory.writeBytes m a (vs ++ [v]) = Memory.write (Memory.writeBytes m a vs) (a + vs.length) v := by
  induction vs generalizing m a with
  | nil => rfl
  | cons w vs ih =>
    rw [List.cons_append, Memory.writeBytes, ih, Memory.writeBytes, List.length_cons, Nat.add_right_comm, Nat.add_assoc]

@[simp] theorem length_persistedBlock (vs : List Byte) : (persistedBlock vs).length = vs.length + 2 := rfl

/-- The block SAVE writes for `b` (43_persistence.md R175). -/
def State.block (s : State) (b : BufId) : List Byte := persistedBlock ((s.buf b).logical (s.cap b))

@[simp] theorem State.length_block (s : State) (b : BufId) : (s.block b).length = (s.buf b).count.toNat + 2 := by
  rw [State.block, length_persistedBlock, Buf.length_logical]

/-- The bytes SAVE requests one by one are those of the block. -/
theorem State.getElem?_block {s : State} {b : BufId} (hx : (s.buf b).Inv (s.cap b)) {j : Nat}
    (hj : j < (s.buf b).count.toNat + 2) : (s.block b)[j]? = some (s.blockByte b j) := by
  have hlen : BitVec.ofNat 16 ((s.buf b).logical (s.cap b)).length = (s.buf b).count := by
    rw [Buf.length_logical, BitVec.ofNat_toNat, BitVec.setWidth_eq]
  match j with
  | 0 => rw [State.block, persistedBlock, hlen]; rfl
  | 1 => rw [State.block, persistedBlock, hlen]; rfl
  | j + 2 =>
    obtain ⟨v, hread, hentry⟩ := hx.read_slot (Nat.lt_of_add_lt_add_right hj)
    exact hentry.trans (congrArg some (State.sramRead_of_read hread).symm)

/-! ## A whole SAVE -/

/-- A SAVE whose block fits has just been accepted, the host is idle and every access is acknowledged. -/
structure State.SaveAccepted (s : State) (b : BufId) (off : Half) : Prop where
  inv : s.Inv
  accepted : s.justAccepted (.save b off)
  fits : off.toNat + 2 + (s.buf b).count.toNat ≤ s.params.storeSize
  acks : ∀ k, k ≤ (s.buf b).count.toNat + 2 → s.ackAt k = true

/-- The SAVE accepted at `s₀` has byte `j` of its block in transfer, and the bytes before it are written. -/
structure State.SaveRun (s₀ : State) (b : BufId) (off : Half) (j : Nat) (s : State) : Prop
    extends s₀.IdleRun (j + 1) s where
  busy : s.regs.busy = true
  started : s.eng.started = true
  idx : s.eng.idx = j
  wdata : (s₀.block b)[j]? = some s.port.wdata
  bufs : s.bufs = s₀.bufs
  storage : s.storage = Memory.writeBytes s₀.storage off.toNat ((s₀.block b).take j)

section
variable {s₀ s : State} {b : BufId} {off : Half} {j : Nat} (h₀ : s₀.SaveAccepted b off)
include h₀

theorem State.SaveAccepted.begins : ∃ s, s₀.SaveRun b off 0 s := by
  obtain ⟨hbusy, hd, hs, hhost⟩ := h₀.accepted
  obtain ⟨⟨-, hbufs, -⟩, -⟩ := s₀.inv_iff.mp h₀.inv
  have hx : execSave b off s₀.quiet = _ := execSave_of_fits hs h₀.fits
  exact ⟨_, (State.idleRun_zero h₀.inv hhost).edge hbusy hd hx, hbusy, rfl, rfl,
    State.getElem?_block (hbufs b) (Nat.succ_pos _), rfl, rfl⟩

/-- The edge at which byte `j` is acknowledged. -/
theorem State.SaveRun.acknowledged (h : s₀.SaveRun b off j s) (hj : j < (s₀.buf b).count.toNat + 2) :
    s.quiet.acknowledged ∧
    s.quiet.performAccess.storage = Memory.writeBytes s₀.storage off.toNat ((s₀.block b).take (j + 1)) := by
  obtain ⟨-, hd, -⟩ := h₀.accepted
  obtain ⟨-, htr⟩ := s.inv_iff.mp h.inv
  obtain ⟨hr, hw, haddr, -⟩ := (State.transferInv_save h.busy h.started (h.cmd ▸ hd)).mp htr
  refine ⟨h.toIdleRun.acknowledged h.started hr (h₀.acks _ (by omega)), ?_⟩
  have hlen : ((s₀.block b).take j).length = j := by
    rw [List.length_take, State.length_block]
    omega
  rw [List.take_add_one, h.wdata, Option.toList_some, Memory.writeBytes_concat, hlen, ← h.storage, ← h.idx, ← haddr,
    State.performAccess_storage]
  exact if_pos hw

theorem State.SaveRun.next (h : s₀.SaveRun b off j s) (hj : j + 1 < (s₀.buf b).count.toNat + 2) :
    ∃ s', s₀.SaveRun b off (j + 1) s' := by
  obtain ⟨-, hd, -⟩ := h₀.accepted
  obtain ⟨⟨-, hbufs, -⟩, -⟩ := s.inv_iff.mp h.inv
  obtain ⟨hack, hstorage⟩ := h.acknowledged h₀ (Nat.lt_of_succ_lt hj)
  have hbuf := State.buf_congr h.bufs b
  have hblock : s.block b = s₀.block b := by rw [State.block, State.block, hbuf, h.cap]
  rw [← hbuf] at hj
  have hx := execSave_of_more (off := off) hack (h.idx.symm ▸ hj)
  refine ⟨_, h.toIdleRun.edge h.busy hd hx, ?_, ?_, ?_, ?_, ?_, hstorage⟩
  · exact (congrArg Regs.busy s.quiet.performAccess_regs).trans h.busy
  · exact (congrArg Engine.started s.quiet.performAccess_eng).trans h.started
  · exact congrArg (· + 1) h.idx
  · rw [← hblock, ← h.idx]
    exact State.getElem?_block (hbufs b) (h.idx.symm ▸ hj)
  · exact s.quiet.performAccess_bufs.trans h.bufs

theorem State.SaveAccepted.reaches (hj : j < (s₀.buf b).count.toNat + 2) : ∃ s, s₀.SaveRun b off j s := by
  induction j with
  | zero => exact h₀.begins
  | succ j ih =>
    obtain ⟨s, h⟩ := ih (Nat.lt_of_succ_lt hj)
    exact h.next h₀ hj

/-- The edge at which the last byte is acknowledged. -/
theorem State.SaveRun.completes (h : s₀.SaveRun b off ((s₀.buf b).count.toNat + 1) s) :
    ∃ t, s₀.IdleRun ((s₀.buf b).count.toNat + 3) t ∧
      t.completedWith .ok (Result.some ((s₀.buf b).count.toNat + 2)) ∧
      t.storage = Memory.writeBytes s₀.storage off.toNat (s₀.block b) ∧ t.bufs = s₀.bufs ∧ t.port.req = false := by
  obtain ⟨-, hd, -⟩ := h₀.accepted
  obtain ⟨hack, hstorage⟩ := h.acknowledged h₀ (Nat.lt_succ_self _)
  rw [List.take_of_length_le (Nat.le_of_eq (s₀.length_block b))] at hstorage
  have hbuf : s.quiet.buf b = s₀.buf b := State.buf_congr h.bufs b
  have hx := execSave_of_last (b := b) (off := off) hack (by rw [hbuf]; exact Nat.succ_le_succ h.idx.ge)
  rw [hbuf] at hx
  exact ⟨_, h.toIdleRun.edge h.busy hd hx, ⟨rfl, rfl, rfl, rfl⟩, hstorage, s.quiet.performAccess_bufs.trans h.bufs, rfl⟩

end

/-- Settles O46: the run reaches the last byte of the block (`State.SaveAccepted.reaches`), whose edge completes the SAVE
with the block written and nothing else. -/
theorem saveWritesThePersistedBlock : Obligations.SaveWritesThePersistedBlock := by
  intro s b off hinv haccepted hfits hacks
  have h₀ : s.SaveAccepted b off := ⟨hinv, haccepted, hfits, hacks⟩
  obtain ⟨u, hu⟩ := h₀.reaches (Nat.lt_succ_self ((s.buf b).count.toNat + 1))
  obtain ⟨t, ht, hcompleted, hstorage, hbufs, hreq⟩ := hu.completes h₀
  refine ⟨t, ht.run, hcompleted, ?_, fun a ha => ?_, hbufs, hreq⟩
  · rw [hstorage]
    exact Memory.holds_writeBytes _ _ _
  · rw [hstorage, Memory.read_writeBytes_other]
    rw [State.length_block]
    omega

/-! ## A whole LOAD -/

/-- A push in states of the invariant keeps the latest samples: a full buffer's oldest slot is written, so its sum loses
the sample itself and no draw. -/
theorem State.DataInv.holdsLatest_pushStep {s : State} (h : s.DataInv) {b : BufId} {vs : List Byte}
    (hl : (s.buf b).HoldsLatest (s.cap b) vs) (v : Byte) :
    ((s.pushStep b v).buf b).HoldsLatest (s.cap b) (vs ++ [v]) := by
  obtain ⟨hwf, -⟩ := id h
  obtain ⟨hpos, hcap⟩ := hwf.cap_inRange b
  have hpush := hl.push hpos hcap v
  rw [State.pushStep_buf]
  rcases Nat.lt_or_ge (s.buf b).count.toNat (s.cap b) with hn | hn
  · rwa [Buf.push_of_not_full hn] at hpush ⊢
  · have hle : (s.buf b).count.toNat ≤ s.cap b := hl.count ▸ Nat.min_le_right _ _
    rwa [h.read_oldest (Nat.le_antisymm hle hn), Option.getD_some] at hpush

/-- A length is its high byte and its low byte (20_memory.md R67). -/
theorem extractLsb'_append_halves (w : Half) : w.extractLsb' 8 8 ++ w.extractLsb' 0 8 = w :=
  (BitVec.extractLsb'_append_extractLsb'_eq_extractLsb' (start₁ := 0) (len₁ := 8) rfl).trans BitVec.extractLsb'_eq_self

/-- A LOAD has just been accepted, the host is idle, its reads find the block of `vs` inside the medium, and every access
is acknowledged. -/
structure State.LoadAccepted (s : State) (b : BufId) (off : Half) (vs : List Byte) : Prop where
  inv : s.Inv
  accepted : s.justAccepted (.load b off)
  length : vs.length ≤ 65535
  fits : off.toNat + 2 + vs.length ≤ s.params.storeSize
  bytes : ∀ j (h : j < (persistedBlock vs).length), s.byteAt (j + 1) (off.toNat + j) = (persistedBlock vs)[j]
  acks : ∀ k, k ≤ vs.length + 2 → s.ackAt k = true

/-- What a LOAD of `vs` leaves as `n` of its samples have been pushed. -/
structure State.LoadedUpTo (s₀ : State) (b : BufId) (vs : List Byte) (n : Nat) (s : State) : Prop where
  latest : (s.buf b).HoldsLatest (s₀.cap b) (vs.take n)
  others : ∀ c, c ≠ b → s.buf c = s₀.buf c
  storage : s.storage = s₀.storage

/-- The engine has byte `j` of a LOAD of `vs` in transfer, and the length as far as it is read. -/
structure State.LoadsByte (vs : List Byte) (j : Nat) (s : State) : Prop where
  busy : s.regs.busy = true
  started : s.eng.started = true
  idx : s.eng.idx = j
  low : 1 ≤ j → s.eng.len.extractLsb' 0 8 = (BitVec.ofNat 16 vs.length).extractLsb' 0 8
  len : 2 ≤ j → s.eng.len = BitVec.ofNat 16 vs.length

/-- The high byte completes the length. -/
theorem State.LoadsByte.lengthRead {vs : List Byte} {s : State} (h : State.LoadsByte vs 1 s) :
    s.quiet.lengthRead ((BitVec.ofNat 16 vs.length).extractLsb' 8 8) = BitVec.ofNat 16 vs.length := by
  rw [State.lengthRead, State.quiet_eng, h.low (Nat.le_refl 1), extractLsb'_append_halves]

/-- The LOAD of `vs` accepted at `s₀` has byte `j` of its block in transfer, and the samples before it are pushed. -/
structure State.LoadRun (s₀ : State) (b : BufId) (vs : List Byte) (j : Nat) (s : State) : Prop
    extends s₀.IdleRun (j + 1) s, s₀.LoadedUpTo b vs (j - 2) s, State.LoadsByte vs j s

section
variable {s₀ s : State} {b : BufId} {off : Half} {vs : List Byte} {j : Nat} {v : Byte} (h₀ : s₀.LoadAccepted b off vs)
include h₀

theorem State.LoadAccepted.toNat_length : (BitVec.ofNat 16 vs.length).toNat = vs.length := by
  have := h₀.length
  rw [BitVec.toNat_ofNat]
  omega

theorem State.LoadAccepted.begins : ∃ s, s₀.LoadRun b vs 0 s := by
  obtain ⟨hbusy, hd, hs, hhost⟩ := h₀.accepted
  have hx : execLoad b off s₀.quiet = _ := execLoad_of_fits hs (Nat.le_trans (Nat.le_add_right _ _) h₀.fits)
  refine ⟨_, (State.idleRun_zero h₀.inv hhost).edge hbusy hd hx, ⟨?_, fun c hc => ?_, rfl⟩, hbusy, rfl, rfl, nofun, nofun⟩
  · have hbuf : (s₀.quiet.setBuf b (s₀.buf b).clear).buf b = (s₀.buf b).clear := State.buf_setBuf_same _ _ _
    exact hbuf.symm ▸ Buf.holdsLatest_clear (s₀.buf b) (s₀.cap b)
  · exact State.buf_setBuf_other s₀.quiet hc _

/-- The edge at which byte `j` is read. -/
theorem State.LoadRun.reads (h : s₀.LoadRun b vs j s) (hv : (persistedBlock vs)[j]? = some v) :
    execLoad b off s.quiet = .next (s.quiet.loadNext b off v) := by
  obtain ⟨-, hd, -⟩ := h₀.accepted
  obtain ⟨-, htr⟩ := s.inv_iff.mp h.inv
  obtain ⟨hr, hw, haddr, -⟩ := (State.transferInv_load h.busy h.started (h.cmd ▸ hd)).mp htr
  obtain ⟨hj, hv⟩ := List.getElem?_eq_some_iff.mp hv
  rw [length_persistedBlock] at hj
  have hack := h.toIdleRun.acknowledged h.started hr (h₀.acks _ (by omega))
  have hbyte : s.quiet.storageRead s.port.addr.toNat = v := by
    rw [← hv, ← h₀.bytes j, haddr, h.idx, State.byteAt, ← h.cycle, ← h.storage]
    rfl
  rw [execLoad_of_acknowledged hack hw, State.quiet_port, hbyte]

theorem State.LoadRun.edge (h : s₀.LoadRun b vs j s) (hv : (persistedBlock vs)[j]? = some v) :
    s₀.IdleRun (j + 2) (s.closeEdge (s.quiet.loadNext b off v)) ∧
    s₀.LoadedUpTo b vs (j + 1 - 2) (s.closeEdge (s.quiet.loadNext b off v)) := by
  obtain ⟨-, hd, -⟩ := h₀.accepted
  obtain ⟨hdata, -⟩ := s.inv_iff.mp h.inv
  obtain ⟨-, -, hothers⟩ := s.quiet.loadNext_leavesAllBut b off v
  have hbufs := s.quiet.loadNext_bufs b off v
  refine ⟨h.toIdleRun.edge h.busy hd (h.reads h₀ hv), ?_, fun c hc => ?_, ?_⟩
  · show ((s.quiet.loadNext b off v).buf b).HoldsLatest _ _
    by_cases hj : 2 ≤ j
    · obtain ⟨i, rfl⟩ := Nat.exists_eq_add_of_le' hj
      have hpush := State.DataInv.holdsLatest_pushStep (s := s.quiet) hdata (h.cap b ▸ h.latest) v
      have htake : vs.take (i + 1) = vs.take i ++ [v] := by
        rw [List.take_add_one, show vs[i]? = some v from hv, Option.toList_some]
      rw [State.buf_congr (hbufs.trans (if_pos (h.idx.symm ▸ hj))), ← h.cap]
      exact htake ▸ hpush
    · rw [State.buf_congr (hbufs.trans (if_neg (h.idx.symm ▸ hj))), show j + 1 - 2 = j - 2 by omega]
      exact h.latest
  · exact (hothers c fun hbc => hc (Option.some.inj hbc).symm).trans (h.others c hc)
  · exact (s.quiet.loadNext_storage b off v).trans h.storage

theorem State.LoadRun.next (h : s₀.LoadRun b vs j s) (hj : j + 1 < vs.length + 2) :
    ∃ s', s₀.LoadRun b vs (j + 1) s' := by
  have hlen := h₀.toNat_length
  obtain ⟨v, hv⟩ : ∃ v, (persistedBlock vs)[j]? = some v :=
    ⟨_, List.getElem?_eq_getElem (Nat.lt_of_succ_lt hj)⟩
  obtain ⟨hidle, hloaded⟩ := h.edge h₀ hv
  refine ⟨_, hidle, hloaded, ?_⟩
  have hidx : s.quiet.eng.idx = j := h.idx
  match j, hv with
  | 0, hv =>
    obtain rfl := Option.some.inj hv
    rw [State.loadNext_of_low hidx]
    exact ⟨h.busy, h.started, rfl, fun _ => BitVec.extractLsb'_append_eq_right, nofun⟩
  | 1, hv =>
    obtain rfl := Option.some.inj hv
    have hl := h.lengthRead
    rw [State.loadNext_of_header hidx, hl]
    · exact ⟨h.busy, h.started, rfl, fun _ => rfl, fun _ => rfl⟩
    · rw [hl, hlen, State.quiet_params, h.params]
      exact h₀.fits
    · intro h0
      have hzero : vs.length = 0 := by
        rw [← hlen, ← hl, h0]
        rfl
      omega
  | j + 2, hv =>
    have hl : s.quiet.eng.len = BitVec.ofNat 16 vs.length := h.len (Nat.le_add_left 2 j)
    rw [State.loadNext_of_sample (hidx ▸ Nat.le_add_left 2 j) (by rw [hl, hlen, hidx]; exact hj)]
    exact ⟨h.busy, h.started, congrArg (· + 1) h.idx, fun _ => congrArg (BitVec.extractLsb' 0 8) hl, fun _ => hl⟩

theorem State.LoadAccepted.reaches (hj : j < vs.length + 2) : ∃ s, s₀.LoadRun b vs j s := by
  induction j with
  | zero => exact h₀.begins
  | succ j ih =>
    obtain ⟨s, h⟩ := ih (Nat.lt_of_succ_lt hj)
    exact h.next h₀ hj

/-- The edge at which the last byte is read: the length's high byte of an empty block, or the last sample. -/
theorem State.LoadRun.completes (h : s₀.LoadRun b vs (vs.length + 1) s) :
    ∃ t, s₀.IdleRun (vs.length + 3) t ∧ s₀.LoadedUpTo b vs vs.length t ∧
      t.completedWith .ok (Result.some (vs.length + 2)) ∧ t.port.req = false := by
  have hlen := h₀.toNat_length
  obtain ⟨v, hv⟩ : ∃ v, (persistedBlock vs)[vs.length + 1]? = some v :=
    ⟨_, List.getElem?_eq_getElem (Nat.lt_succ_self _)⟩
  obtain ⟨hidle, hloaded⟩ := h.edge h₀ hv
  refine ⟨_, hidle, hloaded, ?_⟩
  have hidx : s.quiet.eng.idx = vs.length + 1 := h.idx
  rcases Nat.eq_zero_or_pos vs.length with h0 | hpos
  · obtain rfl := List.eq_nil_of_length_eq_zero h0
    obtain rfl := Option.some.inj hv
    have hl := h.lengthRead
    rw [State.loadNext_of_empty hidx, hl]
    · exact ⟨⟨rfl, rfl, rfl, rfl⟩, rfl⟩
    · rw [hl, hlen, State.quiet_params, h.params]
      exact h₀.fits
    · exact hl
  · have hl : s.quiet.eng.len = BitVec.ofNat 16 vs.length := h.len (by omega)
    rw [State.loadNext_of_last (by omega) (by rw [hl, hlen, hidx]), hl, hlen]
    exact ⟨⟨rfl, rfl, rfl, rfl⟩, rfl⟩

end

/-- Settles O49: the run reaches the last byte of the block (`State.LoadAccepted.reaches`), whose edge completes the LOAD
with every sample pushed into the emptied buffer (`Buf.HoldsLatest`). -/
theorem loadRestoresThePersistedBlock : Obligations.LoadRestoresThePersistedBlock := by
  intro s b off vs hinv haccepted hlength hfits hbytes hacks
  have h₀ : s.LoadAccepted b off vs := ⟨hinv, haccepted, hlength, hfits, hbytes, hacks⟩
  obtain ⟨u, hu⟩ := h₀.reaches (Nat.lt_succ_self (vs.length + 1))
  obtain ⟨t, ht, ⟨hlatest, hothers, hstorage⟩, hcompleted, hreq⟩ := hu.completes h₀
  rw [List.take_length] at hlatest
  obtain ⟨hstart, hlog, hsum⟩ := id hlatest
  refine ⟨t, ht.run, hcompleted, hlog, hlatest.count, ?_, hlog ▸ hsum, hothers, hstorage, hreq⟩
  rw [hstart]
  split
  · next hle => rw [Nat.sub_eq_zero_of_le hle, Nat.zero_mod]
  · rfl

/-- Settles O50: the SAVE leaves the block of the logical contents (O46), which the LOAD then finds and restores (O49),
no sample being evicted. -/
theorem saveThenLoadRoundTrip : Obligations.SaveThenLoadRoundTrip := by
  intro s t u b c off hinv haccepted hfits hacks hrun hinv' haccepted' hparams hcap hunwritten hacks'
  obtain ⟨t', hrun', ⟨-, -, -, hresult⟩, hholds, -⟩ := saveWritesThePersistedBlock s b off hinv haccepted hfits hacks
  obtain rfl : t = t' := Host.Outcome.next.inj (hrun.symm.trans hrun')
  obtain ⟨⟨-, hbufs, -⟩, -⟩ := s.inv_iff.mp hinv
  obtain ⟨-, -, hsum, -⟩ := hbufs b
  have hcap' : u.cap c = s.cap c := by rw [State.cap, State.cap, hparams]
  have hlen := (s.buf b).length_logical (s.cap b)
  generalize (s.buf b).logical (s.cap b) = vs at *
  have hbytes : ∀ j (h : j < (persistedBlock vs).length),
      u.byteAt (j + 1) (off.toNat + j) = (persistedBlock vs)[j] := fun j hj => by
    have hj' : j < vs.length + 2 := hj
    exact State.byteAt_of_read ((hunwritten _ (by omega) (by omega)).trans (hholds j hj)) _
  obtain ⟨v, hrun'', hcompleted, hlog, hcount, hstart, hsum', -⟩ := loadRestoresThePersistedBlock u c off vs hinv'
    haccepted' (by omega) (by rw [hparams]; omega) hbytes (by rwa [hlen])
  have hall : vs.length - u.cap c = 0 := by omega
  rw [hall, List.drop_zero] at hlog hsum'
  rw [hlen] at hrun'' hcompleted hcount hstart
  refine ⟨v, hrun'', BitVec.eq_of_toNat_eq ?_, BitVec.eq_of_toNat_eq ?_, hcap' ▸ hlog, BitVec.eq_of_toNat_eq ?_, ?_⟩
  · omega
  · rw [hsum', hsum]
  · rw [hstart, if_pos (by omega)]
    rfl
  · rwa [hresult]

end Sys2Proof.Machine
end

section
/-! An edge between commands (spec/60_exceptions.md R213): with no command in progress and no write to CMD it is the
host's part alone, which writes the host's own registers and the byte another agent writes. -/

namespace Sys2Proof.Machine

/-- Another agent's write to the medium leaves every other byte (20_memory.md R69). -/
theorem State.read_mediumNow_other {s : State} {a : Nat} (h : ∀ c, s.env.host.head? = some (.medium c) → a ≠ c.toNat) :
    Memory.read s.mediumNow a = Memory.read s.storage a := by
  by_cases hm : ∃ c, s.env.host.head? = some (.medium c)
  · obtain ⟨c, hc⟩ := hm
    rw [State.mediumNow_of_medium hc, Memory.read_erase_other _ (h c hc)]
  · rw [State.mediumNow_of_no_medium (not_exists.mp hm)]

/-- An edge without reset, without a command in progress or accepted, is the host's side and the medium. -/
theorem step_next_of_idle {s t : State} (h : step s = .next t) (hr : s.resetNow = false) (hb : s.regs.busy = false)
    (hcmd : s.writesNow 3 = none) :
    t = s.closeEdge { s.withHost s.writtenView with storage := s.mediumNow } := by
  obtain ⟨-, ht⟩ | ⟨hb', -⟩ := step_next h hr
  · rw [ht, State.hostEdge_eq, State.acceptNow_of_no_cmd hcmd]
  · rw [hb] at hb'
    cases hb'

/-- Settles O19: the edge writes the host's side and the medium alone (`step_next_of_idle`), so what it does not name is
kept by definition; a host register keeps its value where its own write is missing, and a byte of the medium where no
other agent writes it (`State.read_mediumNow_other`). -/
theorem idleBlockStaysAsItIs : Obligations.IdleBlockStaysAsItIs := by
  intro s t h hr hb hcmd
  rw [step_next_of_idle h hr hb hcmd]
  refine ⟨rfl, rfl, rfl, rfl, hb, rfl, rfl, rfl, rfl, rfl, rfl, rfl, fun hctrl => ?ie, fun hstatus => ⟨?done, ?drop⟩,
    fun hbudget => ?budget, fun a ha => State.read_mediumNow_other fun c hc hac => ?byte⟩
  case ie => simp [closeEdge_regs, State.withHost, State.writtenView, hctrl]
  case done => simp [closeEdge_regs, State.withHost, State.writtenView, State.clearsNow, hstatus]
  case drop => simp [closeEdge_regs, State.withHost, State.writtenView, State.clearsNow, hstatus, hb]
  case budget => simp [closeEdge_regs, State.withHost, State.writtenView, hbudget]
  case byte =>
    subst hac
    obtain ha | ha := ha
    · exact ha (by rw [BitVec.ofNat_toNat, BitVec.setWidth_eq, hc])
    · exact absurd c.isLt (by omega)

end Sys2Proof.Machine
end

section
/-! The edges at which another agent ends or touches the block's work: a reset edge (spec/70_reset_and_hazards.md R220 to
R223), and another agent's write to the medium, which has no move while a SAVE or LOAD is in progress (R231). -/

namespace Sys2Proof.Machine

/-! ## A reset edge -/

theorem step_of_reset {s : State} (hn : s.noMove = none) (hr : s.resetNow = true) : step s = .next s.resetEdge := by
  simp [step, hn, hr]

/-- With parameters in range only a write to the medium can have no move. -/
theorem State.noMove_of_no_medium {s : State} (hwf : s.params.WellFormed)
    (h : ∀ a, s.env.host.head? ≠ some (.medium a)) : s.noMove = none := by
  rw [State.noMove, if_pos hwf]
  split
  · next a ha => exact absurd ha (h a)
  · rfl

/-- A reset edge forgets the byte of an outstanding access and keeps every other byte (20_memory.md R64,
70_reset_and_hazards.md R221, R222). -/
theorem State.read_storageAtReset (s : State) (j : Nat) : Memory.read s.storageAtReset j =
    if s.port.req = true ∧ j = s.port.addr.toNat then none else Memory.read s.storage j := by
  unfold State.storageAtReset
  by_cases hreq : s.port.req = true
  · rw [if_pos hreq]
    by_cases hj : j = s.port.addr.toNat
    · rw [if_pos ⟨hreq, hj⟩, hj, Memory.read_erase_same]
    · rw [if_neg fun h => hj h.2, Memory.read_erase_other _ hj]
  · rw [if_neg hreq, if_neg fun h => hreq h.1]

/-- Settles O21: the step is the reset edge, which builds its state from `State.resetWith`; the host goes on with its
next action (`step_host`), and the medium is `State.read_storageAtReset`. -/
theorem resetEdgeEndsEverything : Obligations.ResetEdgeEndsEverything := by
  intro s a ops hwf hs
  have hstep : step s = .next s.resetEdge :=
    step_of_reset (State.noMove_of_no_medium hwf (by simp [hs])) (by simp [State.resetNow, hs])
  refine ⟨s.resetEdge, hstep, rfl, rfl, rfl, rfl, rfl, step_host hs hstep, ?regs, s.read_storageAtReset⟩
  case regs =>
    rw [State.resetEdge, closeEdge_regs, State.accessNow_cons hs]
    rfl

/-! ## Another agent's write to the medium -/

theorem opField_of_decode {w : Word} {i : Instr} (h : decode w = .instr i) : opField w = i.opcode := by
  unfold decode at h
  split at h
  case h_9 => cases h
  all_goals
    next hop =>
    cases h
    exact BitVec.eq_of_toNat_eq hop

theorem State.storageInUse_of_transfer {s : State} (hb : s.regs.busy = true)
    (h : ∃ b off, decode s.eng.cmd = .instr (.save b off) ∨ decode s.eng.cmd = .instr (.load b off)) :
    s.storageInUse = true := by
  obtain ⟨b, off, hd | hd⟩ := h <;> simp [State.storageInUse, hb, opField_of_decode hd, Instr.opcode]

theorem State.noMove_of_medium {s : State} {a : Half} (hwf : s.params.WellFormed)
    (hm : s.env.host.head? = some (.medium a)) : s.noMove =
      if s.storageInUse || decide (s.params.storeSize ≤ a.toNat) then some .concurrentStorageAccess else none := by
  rw [State.noMove, if_pos hwf, hm]

/-- Settles O51: a transfer in progress leaves the write no move (`State.noMove_of_medium`); between commands the edge is
the host's part alone (`step_next_of_idle`), whose medium has forgotten the one byte (`State.mediumNow`). -/
theorem storageIsExclusiveDuringTransfer : Obligations.StorageIsExclusiveDuringTransfer := by
  intro s a ops hwf hs
  have hm : s.env.host.head? = some (.medium a) := by rw [hs, List.head?_cons]
  refine ⟨fun hb hd => ?refused, fun hb ha => ?between⟩
  case refused =>
    refine step_of_noMove ?_
    rw [State.noMove_of_medium hwf hm, State.storageInUse_of_transfer hb hd, Bool.true_or, if_pos rfl]
  case between =>
    have hn : s.noMove = none := by
      simp [State.noMove_of_medium hwf hm, State.storageInUse, hb, ha]
    have hr : s.resetNow = false := by simp [State.resetNow, hs]
    have hcmd : s.writesNow 3 = none := by rw [State.writesNow, State.accessNow_cons hs, HostOp.access]
    have hstep := step_of_idle hn hr hb
    refine ⟨_, hstep, ?_⟩
    rw [step_next_of_idle hstep hr hb hcmd, closeEdge_storage, closeEdge_bufs, State.mediumNow_of_medium hm]
    exact ⟨Memory.read_erase_same _ _, rfl, fun j hj => Memory.read_erase_other _ hj⟩

end Sys2Proof.Machine
end

section
/-! SUPPORT. The decoder on the encoder's words (spec/30_encoding.md R85 to R92): each field of a packed word is the value
packed into it, so each opcode's rule of the decoder finds the operands again. -/

namespace Sys2Proof.Machine

/-! ## The fields of a packed word -/

@[simp] theorem opField_packWord (op : BitVec 4) (b : BitVec 2) (arg : Half) : opField (packWord op b arg) = op :=
  (Laws.EncodedWord.packed op b arg).left

@[simp] theorem bufField_packWord (op : BitVec 4) (b : BitVec 2) (arg : Half) : bufField (packWord op b arg) = b := by
  simp [bufField, packWord, BitVec.extractLsb'_or]

@[simp] theorem argField_packWord (op : BitVec 4) (b : BitVec 2) (arg : Half) : argField (packWord op b arg) = arg := by
  simp [argField, packWord, BitVec.extractLsb'_or]

/-- A sample packed as ARG stands in its low byte (R88). -/
@[simp] theorem sampleField_packWord (op : BitVec 4) (b : BitVec 2) (x : Byte) :
    sampleField (packWord op b (x.setWidth 16)) = x := by
  rw [sampleField_eq, argField_packWord, ← BitVec.setWidth_eq_extractLsb' (by decide),
    BitVec.setWidth_setWidth_of_le x (by decide), BitVec.setWidth_eq]

/-! ## The decoder after the encoder -/

theorem decode_encode (i : Instr) : decode (encode i) = .instr i := by
  cases i with
  | start => exact decode_of_start (opField_packWord _ _ _)
  | read => exact decode_of_read (opField_packWord _ _ _)
  | init b => simp [encode, decode_of_init]
  | push b x => simp [encode, decode_of_push]
  | atIndex b k => simp [encode, decode_of_at]
  | avg b => simp [encode, decode_of_avg]
  | save b off => simp [encode, decode_of_save]
  | load b off => simp [encode, decode_of_load]

/-- The 32 bits of a word, in the numbering of the opcode table, name the instruction the word decodes to. -/
theorem decodeTableWord_of_decode {w : Word} {i : Instr} (h : decode w = .instr i) :
    decodeTableWord 32 w.toNat = some i := by
  have hw : BitVec.ofNat 32 (w.toNat % 2 ^ 32) = w := by
    rw [Nat.mod_eq_of_lt w.isLt, BitVec.ofNat_toNat, BitVec.setWidth_eq]
  rw [decodeTableWord, hw, h]

/-- Settles O1: each opcode's rule of the decoder reads the packed operands back (`decode_encode`), and the table's
numbering names the same word (`decodeTableWord_of_decode`). -/
theorem decodeOfEncodeIsTheInstruction : Obligations.DecodeOfEncodeIsTheInstruction :=
  fun i => ⟨decode_encode i, decodeTableWord_of_decode (decode_encode i)⟩

/-! ## The step of a cycle with a move and without reset -/

/-- Settles O6: the three kinds of such a step (`step_of_idle`, `step_of_instr`, `step_of_illegal`). -/
theorem stepRunsTheCommandInProgress : Obligations.StepRunsTheCommandInProgress :=
  fun _ hn hr => ⟨step_of_idle hn hr, fun _ => step_of_instr hn hr, fun _ => step_of_illegal hn hr⟩

end Sys2Proof.Machine
end
